-- ==== Sys2Proof/Word.lean ====
section
/-! DEFINITION. The word types of the hardware. Bit 0 is the least significant bit (R10); every value is unsigned
(R8, R10, R36). -/

namespace Sys2Proof

/-- A data word: "an unsigned 32-bit quantity" (R8 `WORD`, R10). -/
abbrev Word := BitVec 32

/-- A byte of the host side (R8, R25, R26). -/
abbrev Byte := BitVec 8

/-- A host command word `CMD` (R70). -/
abbrev CmdWord := BitVec 16

/-- A host response word `RSP` (R73). -/
abbrev RspWord := BitVec 16

/-- A sequencer word `SEQ = PHASE ‖ IDX` (R32, R78). -/
abbrev SeqWord := BitVec 9

end Sys2Proof
end

