-- ==== Sys2Proof/Machine/BitMix.lean ====
section
/-! DEFINITION. The bit-mixing library as pure functions (40_bitmix.md, R90 to R102). -/

namespace Sys2Proof.Machine

/-- `ADD32` of two or more words: the sum over the integers, then reduced mod 2^32 (R90). -/
def add32 (a b : Word) (more : List Word) : Word :=
  BitVec.ofNat 32 (a.toNat + b.toNat + (more.map BitVec.toNat).sum)

/-- `ROTR(x, n)`, `0 ≤ n ≤ 31` (R91). -/
def rotr (x : Word) (n : Nat) : Word :=
  if n = 0 then x else (x >>> n) ||| (x <<< (32 - n))

/-- `SHR(x, n)`: logical right shift, zeros enter at bit 31 (R92). -/
def shr (x : Word) (n : Nat) : Word := x >>> n

/-- `SIGMA0S`, the source's `σ0` (R93). -/
def sigma0s (x : Word) : Word := rotr x 7 ^^^ rotr x 18 ^^^ shr x 3

/-- `SIGMA1S`, the source's `σ1` (R94). -/
def sigma1s (x : Word) : Word := rotr x 17 ^^^ rotr x 19 ^^^ shr x 10

/-- `SIGMA0B`, the source's `Σ0` (R95). -/
def sigma0b (x : Word) : Word := rotr x 2 ^^^ rotr x 13 ^^^ rotr x 22

/-- `SIGMA1B`, the source's `Σ1` (R96). -/
def sigma1b (x : Word) : Word := rotr x 6 ^^^ rotr x 11 ^^^ rotr x 25

/-- `CH`: bitwise choose (R97). -/
def ch (x y z : Word) : Word := (x &&& y) ^^^ (~~~x &&& z)

/-- `MAJ`: bitwise majority (R98). -/
def maj (x y z : Word) : Word := (x &&& y) ^^^ (x &&& z) ^^^ (y &&& z)

/-- Byte `k` of a word, `k = 0` the least significant. -/
def byteAt (w : Word) (k : Nat) : Byte := w.extractLsb' (8 * k) 8

/-- `REV32`: reverse the four bytes of a word (R99). -/
def rev32 (w : Word) : Word := byteAt w 0 ++ byteAt w 1 ++ byteAt w 2 ++ byteAt w 3

/-- `BE32`: assemble a word, first byte most significant (R100, R51). -/
def be32 (b0 b1 b2 b3 : Byte) : Word := b0 ++ b1 ++ b2 ++ b3

/-- `LE32`: assemble a word, first byte least significant (R101). -/
def le32 (b0 b1 b2 b3 : Byte) : Word := b3 ++ b2 ++ b1 ++ b0

/-- `BEBYTES`: split a word, most significant byte first (R102). -/
def beBytes (w : Word) : Byte × Byte × Byte × Byte := (byteAt w 3, byteAt w 2, byteAt w 1, byteAt w 0)

/-- `LEBYTES`: split a word, least significant byte first (R102). -/
def leBytes (w : Word) : Byte × Byte × Byte × Byte := (byteAt w 0, byteAt w 1, byteAt w 2, byteAt w 3)

end Sys2Proof.Machine
end

