-- ==== Sys2Proof/Config.lean ====
section
/-! DEFINITION. What the spec leaves to an implementation and the model names: the contents of the four storage
arrays right after reset (R38, R39; 93_implementation_defined.md U1). Everything else the source leaves open has a
value taken by the spec itself (R9). There is no free value: no instruction of this hardware has an undefined result
(R103, 93_implementation_defined.md section 1). -/

namespace Sys2Proof.Config

/-- What an entry of `S` or `W` holds right after reset. DESIGN CHOICE, unsafe (assumption log 1): R39 says
"unspecified: no value". -/
def resetWord : Word := 0

/-- What an entry of `KB` or `DB` holds right after reset. DESIGN CHOICE, unsafe (assumption log 1): R39 says
"unspecified: no value". -/
def resetByte : Byte := 0

end Sys2Proof.Config
end

