-- ==== Sys2Proof/Syntax.lean ====
section
/-! DEFINITION. The operations of the hardware: one constructor per row of spec/opcode_table.json (26 rows), and the
two kinds of word that carry an encoded operation. -/

namespace Sys2Proof

/-- The operations of S2CORE. Format `C` rows are host commands, format `U` rows the operations of the sequencer and
of the load, format `F` rows the functions of the bit-mixing library (30_encoding.md, 40_bitmix.md). -/
inductive Instr where
  /-- NOP (R151). -/
  | nop
  /-- CLR (R152). -/
  | clr
  /-- PUSHK with its key byte (R153). -/
  | pushk (imm8 : Byte)
  /-- PUSHD with its data byte (R154). -/
  | pushd (imm8 : Byte)
  /-- START (R155). -/
  | start
  /-- RDST (R156). -/
  | rdst
  /-- RDOUT with its output byte index (R157). -/
  | rdout (idx5 : BitVec 5)
  /-- A command word that encodes no command (R76, R158). -/
  | illegal (c : CmdWord)
  /-- XSTEP `i`: derive schedule word `i` (R112). -/
  | xstep (i : BitVec 6)
  /-- RSTEP `i`: apply round `i` (R132). -/
  | rstep (i : BitVec 6)
  /-- KLOAD, the first half of START's load (R111). -/
  | kload
  /-- SLOAD, the second half of START's load (R131). -/
  | sload
  /-- ADD32 of two or more words (R90). -/
  | add32 (a b : Word) (more : List Word)
  /-- ROTR by a constant 0 to 31 (R91). -/
  | rotr (x : Word) (n : Fin 32)
  /-- SHR by a constant 0 to 31 (R92). -/
  | shr (x : Word) (n : Fin 32)
  /-- SIGMA0S, the source's `σ0` (R93). -/
  | sigma0s (x : Word)
  /-- SIGMA1S, the source's `σ1` (R94). -/
  | sigma1s (x : Word)
  /-- SIGMA0B, the source's `Σ0` (R95). -/
  | sigma0b (x : Word)
  /-- SIGMA1B, the source's `Σ1` (R96). -/
  | sigma1b (x : Word)
  /-- CH (R97). -/
  | ch (x y z : Word)
  /-- MAJ (R98). -/
  | maj (x y z : Word)
  /-- REV32 (R99). -/
  | rev32 (x : Word)
  /-- BE32 (R100). -/
  | be32 (b0 b1 b2 b3 : Byte)
  /-- LE32 (R101). -/
  | le32 (b0 b1 b2 b3 : Byte)
  /-- BEBYTES (R102). -/
  | bebytes (x : Word)
  /-- LEBYTES (R102). -/
  | lebytes (x : Word)
deriving DecidableEq, Repr

/-- A word that carries an encoded operation: a 16-bit command word from the host port (format `C`, R70), or the 9-bit
sequencer word (format `U`, R78). The two never mix: a host word cannot select a micro-operation (R78). -/
inductive Code where
  | cmd (c : CmdWord)
  | seq (q : SeqWord)
deriving DecidableEq, Repr

end Sys2Proof
end

