-- ==== Sys2Proof/Machine/State.lean ====
section
/-! DEFINITION. The state of one S2CORE (R20), what the model adds to it so that one deterministic step can be written
(inputs, responses, the output of a library function), the reasons a step can stop, and the state after reset (R39).
Fields in capitals are the spec's, fields in lower case the model's own. -/

namespace Sys2Proof.Machine

/-- `PHASE` (R29). The codes 5, 6 and 7 are unreachable and the type does not contain them (R29;
93_implementation_defined.md U3; assumption log 10). -/
inductive Phase where
  | idle | expand | round | done | error
deriving DecidableEq, Repr

/-- The two errors of the exception class `LengthError` (R31, R180). -/
inductive LengthError where
  | invalidKeyLength | invalidDataLength
deriving DecidableEq, Repr

/-- One event at the boundary of the core, in the order the steps happen (R15, R16, R40): a host command with its
command word, a turn of the sequencer, or a reset. -/
inductive Event where
  | cmd (c : CmdWord) | tick | reset
deriving DecidableEq, Repr

/-- The output of a library function evaluated as an operation of its own (40_bitmix.md): nothing yet, a word, or four
bytes. -/
inductive FnOut where
  | none | word (w : Word) | bytes (b0 b1 b2 b3 : Byte)
deriving DecidableEq, Repr

/-- The state. -/
structure State where
  /-- State registers `S[0..7]` (R21). -/
  S : Vector Word 8
  /-- Round word schedule `W[0..63]` (R23). -/
  W : Vector Word 64
  /-- Round constants `K[0..63]`, read-only (R24; assumption log 2). -/
  K : Vector Word 64
  /-- Key byte buffer `KB[0..63]` (R25). -/
  KB : Vector Byte 64
  /-- Data byte buffer `DB[0..31]` (R26). -/
  DB : Vector Byte 32
  /-- Key byte count, 0 to 65, saturating (R27). -/
  KLEN : Nat
  /-- Data byte count, 0 to 33, saturating (R28). -/
  DLEN : Nat
  /-- Sequencer phase (R29). -/
  PHASE : Phase
  /-- Sequencer index, 6 bits (R30). -/
  IDX : BitVec 6
  /-- Recorded error; `none` is code 0 (R31). -/
  ERR : Option LengthError
  /-- The model's own: events that have not happened yet, next one first (R40; assumption log 3). -/
  inputs : List Event
  /-- The model's own: the responses given so far, in command order, oldest first (R73; assumption log 4). -/
  rsps : List RspWord
  /-- The model's own: the output of the library function evaluated last as an operation of its own; nothing reads it
  (R103; assumption log 5). -/
  fnOut : FnOut
deriving DecidableEq, Repr

/-- Why the model stops. Neither happens in a state reachable from reset (R41, R190). -/
inductive Fault where
  /-- Raised by `step` when `PHASE` and `IDX` form a sequencer word R78 calls unreachable
  (93_implementation_defined.md U3: "treat a state holding one as a `fault`"; assumption log 9). Safe: the hardware is
  never there. -/
  | unreachableSeq
  /-- Raised by the meanings of XSTEP and RSTEP in a state whose `SEQ` does not select that micro-operation, where "no
  step exists" (R78, R160; assumption log 9). `step` never raises it. Safe: the hardware performs no such
  micro-operation. -/
  | notSelected
deriving DecidableEq, Repr

/-- Why the model has no meaning for an operation. -/
inductive Refusal where
  /-- Raised by `exec` for an instruction without a meaning; here no arm raises it. Safe. -/
  | notModelled (mnemonic : String)
deriving DecidableEq, Repr

/-- The three outcomes of a step of this machine. -/
abbrev Result := Host.Outcome State Fault Refusal

/-- The state after reset (R39, R210). `S`, `W`, `KB` and `DB` are "unspecified: no value" there; the value each holds
here is the model's (assumption log 1). -/
def State.reset : State where
  S := Vector.replicate 8 Config.resetWord
  W := Vector.replicate 64 Config.resetWord
  K := roundConstants
  KB := Vector.replicate 64 Config.resetByte
  DB := Vector.replicate 32 Config.resetByte
  KLEN := 0
  DLEN := 0
  PHASE := .idle
  IDX := 0
  ERR := none
  inputs := []
  rsps := []
  fnOut := .none

end Sys2Proof.Machine
end

