-- ==== Sys2Proof/Machine/Flags.lean ====
section
/-! DEFINITION. The status-like state as the host sees it. There are no arithmetic flags: no carry, overflow, zero or
sign result of any operation is kept (R36). What exists is `PHASE` and `ERR`, their codes, the `STATUS` view (R33) and
the sequencer word (R32). -/

namespace Sys2Proof.Machine

/-- The 3-bit code of a phase (R29). -/
def Phase.code : Phase → BitVec 3
  | .idle => 0 | .expand => 1 | .round => 2 | .done => 3 | .error => 4

/-- The 2-bit code of a length error (R31, R180). -/
def LengthError.code : LengthError → BitVec 2
  | .invalidKeyLength => 1 | .invalidDataLength => 2

/-- The 2-bit code `ERR` holds (R31). -/
def errCode : Option LengthError → BitVec 2
  | none => 0
  | some e => e.code

/-- The `STATUS` view: `STATUS[2:0] = PHASE`, `STATUS[4:3] = ERR`, `STATUS[7:5] = 000` (R33). -/
def State.status (s : State) : Byte := 0#3 ++ errCode s.ERR ++ s.PHASE.code

/-- The sequencer word `SEQ = PHASE ‖ IDX` (R32). -/
def State.seqWord (s : State) : SeqWord := s.PHASE.code ++ s.IDX

/-- `busy`, a pure function of `PHASE` (R83): the phases in which the sequencer has a step (R160). -/
def State.busy (s : State) : Bool := s.PHASE == .expand || s.PHASE == .round

end Sys2Proof.Machine
end

