-- ==== Sys2Proof/Machine/Ops.lean ====
section
/-! DEFINITION. The named operations over the state that the meanings share: the byte and word views, responses, the
acceptance table, taking and returning from the one exception, the two loads, the schedule recurrence, the round
function, and the advance of the sequencer. -/

namespace Sys2Proof.Machine

/-! ### Views of the byte buffers and of the state registers -/

/-- `KEYW[i]`: key word `i` of a key byte buffer, big-endian (R35, R51). -/
def keyWord (kb : Vector Byte 64) (i : Fin 16) : Word :=
  be32 kb[4 * i.val] kb[4 * i.val + 1] kb[4 * i.val + 2] kb[4 * i.val + 3]

/-- `PTW[r]`: plaintext word `r` of a data byte buffer, big-endian (R35, R51). -/
def ptWord (db : Vector Byte 32) (r : Fin 8) : Word :=
  be32 db[4 * r.val] db[4 * r.val + 1] db[4 * r.val + 2] db[4 * r.val + 3]

/-- `KEYW[0..15]` (R35). -/
def keyWords (kb : Vector Byte 64) : Vector Word 16 := Vector.ofFn (keyWord kb)

/-- `PTW[0..7]` (R35). -/
def ptWords (db : Vector Byte 32) : Vector Word 8 := Vector.ofFn (ptWord db)

/-- `OUT[j] = S[j div 4][31 - 8(j mod 4) : 24 - 8(j mod 4)]` (R34, R53, R157). -/
def outByte (regs : Vector Word 8) (j : Fin 32) : Byte :=
  byteAt regs[j.val / 4] (3 - j.val % 4)

/-- `OUT[0..31]` (R34). -/
def outBytes (regs : Vector Word 8) : Vector Byte 32 := Vector.ofFn (outByte regs)

/-! ### Responses and acceptance -/

/-- The response codes (R74); the codes 4 to 15 are never produced and the type does not contain them. -/
inductive RspCode where
  | ok | refused | illegal | lenerr
deriving DecidableEq, Repr

/-- The 4-bit number of a response code (R74). -/
def RspCode.bits : RspCode → BitVec 4
  | .ok => 0 | .refused => 1 | .illegal => 2 | .lenerr => 3

/-- The response word: code, four zero bits, data (R73). -/
def rspWord (code : RspCode) (data : Byte) : RspWord := code.bits ++ 0#4 ++ data

/-- `respond(code, data)`: one response word, after those given before (R73). -/
def State.respond (s : State) (code : RspCode) (data : Byte) : State :=
  { s with rsps := s.rsps ++ [rspWord code data] }

/-- The seven host commands, as the rows of the acceptance table (R82). -/
inductive Command where
  | nop | clr | pushk | pushd | start | rdst | rdout
deriving DecidableEq, Repr

/-- The acceptance table (R82): `true` is "acc", `false` is "REF". -/
def accepts : Command → Phase → Bool
  | .nop, _ => true
  | .clr, .idle => true
  | .clr, .expand => false
  | .clr, .round => false
  | .clr, .done => true
  | .clr, .error => true
  | .pushk, p => p == .idle
  | .pushd, p => p == .idle
  | .start, p => p == .idle
  | .rdst, _ => true
  | .rdout, p => p == .done

/-- A legal command: its own action where it is accepted in the current phase, else no change and
`respond(REFUSED, 0x00)` (R150, R159). -/
def State.command (s : State) (c : Command) (act : State → State) : State :=
  if accepts c s.PHASE then act s else s.respond .refused 0

/-! ### Taking the exception, and the return from it -/

/-- `raise LengthError(code)`, the only trap entry: `ERR <- code`, `SEQ <- (ERROR, 0)`,
`respond(LENERR, zext_8(code))`, and nothing else (R183). -/
def State.raise (s : State) (e : LengthError) : State :=
  { s with ERR := some e, PHASE := .error, IDX := 0 }.respond .lenerr (e.code.setWidth 8)

/-- The end of a call and the return from ERROR: counters, `ERR` and `SEQ` to zero, arrays kept (R152, R186). -/
def State.endCall (s : State) : State :=
  { s with KLEN := 0, DLEN := 0, ERR := none, PHASE := .idle, IDX := 0 }.respond .ok 0

/-! ### Loading -/

/-- PUSHK's action: store the byte at `KB[KLEN]` while `KLEN < 64`, count it, saturating at 65 (R153). -/
def State.pushKey (s : State) (b : Byte) : State :=
  { s with
    KB := if h : s.KLEN < 64 then s.KB.set s.KLEN b else s.KB
    KLEN := min (s.KLEN + 1) 65 }.respond .ok 0

/-- PUSHD's action: store the byte at `DB[DLEN]` while `DLEN < 32`, count it, saturating at 33 (R154). -/
def State.pushData (s : State) (b : Byte) : State :=
  { s with
    DB := if h : s.DLEN < 32 then s.DB.set s.DLEN b else s.DB
    DLEN := min (s.DLEN + 1) 33 }.respond .ok 0

/-- The schedule after KLOAD: entries 0 to 15 from the key words, entries 16 to 63 kept (R111). -/
def keyLoaded (kb : Vector Byte 64) (w : Vector Word 64) : Vector Word 64 :=
  Vector.ofFn fun i : Fin 64 => if h : i.val < 16 then keyWord kb ⟨i.val, h⟩ else w[i.val]

/-- KLOAD: load the key words into `W` (R111). -/
def State.loadKey (s : State) : State := { s with W := keyLoaded s.KB s.W }

/-- SLOAD: `S[0..7]` from the plaintext words (R131). -/
def State.loadData (s : State) : State := { s with S := ptWords s.DB }

/-- `SEQ <- (p, i)` (R13). -/
def State.setSeq (s : State) (p : Phase) (i : BitVec 6) : State := { s with PHASE := p, IDX := i }

/-- START's action: the key length first, then the data length, then the load, all in one step (R155, R184). -/
def State.startCall (s : State) : State :=
  if s.KLEN ≠ 64 then s.raise .invalidKeyLength
  else if s.DLEN ≠ 32 then s.raise .invalidDataLength
  else (s.loadKey.loadData.setSeq .expand 16).respond .ok 0

/-! ### The expander, the engine and the sequencer -/

/-- The recurrence of the schedule at index `i` (R112, R113):
`ADD32(SIGMA1S(W[i-2]), W[i-7], SIGMA0S(W[i-15]), W[i-16])`, for `16 ≤ i ≤ 63`. -/
def scheduleWord (w : Vector Word 64) (i : Nat) (h : i < 64) : Word :=
  add32 (sigma1s w[i - 2]) w[i - 7] [sigma0s w[i - 15], w[i - 16]]

/-- XSTEP's write of `W[i]` (R112). -/
def State.deriveWord (s : State) (i : BitVec 6) : State :=
  { s with W := s.W.set i.toNat (scheduleWord s.W i.toNat i.isLt) i.isLt }

/-- `t1` of a round (R133). -/
def roundT1 (st : Vector Word 8) (w k : Word) : Word :=
  add32 st[7] (sigma1b st[4]) [ch st[4] st[5] st[6], w, k]

/-- `t2` of a round (R133). -/
def roundT2 (st : Vector Word 8) : Word := add32 (sigma0b st[0]) (maj st[0] st[1] st[2]) []

/-- `ROUNDFN(s, w, k)`: every new value from the old eight registers (R133, R134). -/
def roundFn (st : Vector Word 8) (w k : Word) : Vector Word 8 :=
  #v[ add32 (roundT1 st w k) (roundT2 st) [], st[0], st[1], st[2],
      add32 st[3] (roundT1 st w k) [], st[4], st[5], st[6] ]

/-- RSTEP's write of `S` (R132). -/
def State.applyRound (s : State) (i : BitVec 6) : State :=
  { s with S := roundFn s.S (s.W[i.toNat]'i.isLt) (s.K[i.toNat]'i.isLt) }

/-- The sequencer's update of `SEQ` after its micro-operation (R161). -/
def State.advance (s : State) : State :=
  match s.PHASE with
  | .expand => if s.IDX = 63 then s.setSeq .round 0 else s.setSeq .expand (s.IDX + 1)
  | .round => if s.IDX = 63 then s.setSeq .done 0 else s.setSeq .round (s.IDX + 1)
  | .idle | .done | .error => s

/-- The output of a library function (40_bitmix.md; assumption log 5). -/
def State.setFnOut (s : State) (o : FnOut) : State := { s with fnOut := o }

/-- The four bytes of `BEBYTES` or `LEBYTES` as an output. -/
def FnOut.ofBytes (b : Byte × Byte × Byte × Byte) : FnOut := .bytes b.1 b.2.1 b.2.2.1 b.2.2.2

/-- A reset in the middle of a run (R210): every piece of state as after reset, `K` unchanged, no response; what has
still to happen and what the host was already answered are not the core's. -/
def State.resetCore (s : State) : State :=
  { State.reset with K := s.K, inputs := s.inputs, rsps := s.rsps }

/-- The state with these events still to happen. -/
def State.withInputs (s : State) (es : List Event) : State := { s with inputs := es }

end Sys2Proof.Machine
end

