-- ==== Sys2Proof/Machine/Expander.lean ====
section
/-! DEFINITION. The key-schedule expander (41_key_schedule.md): KLOAD, XSTEP and the pure function `EXPANDW`. -/

namespace Sys2Proof.Machine

/-- KLOAD (R111; assumption log 8). -/
def execKload (s : State) : Result := .next s.loadKey

/-- XSTEP `i` (R112), then the advance of `SEQ` (R161), where `SEQ` selects it (R78, R160). -/
def execXstep (i : BitVec 6) (s : State) : Result :=
  if s.PHASE = .expand ∧ s.IDX = i ∧ 16 ≤ i.toNat then .next (s.deriveWord i).advance
  else .fault .notSelected

/-- Derive `n` words from index 16 up, each by the recurrence, over a vector that already holds words 0 to 15. -/
def expandFrom (w : Vector Word 64) : Nat → Vector Word 64
  | 0 => w
  | n + 1 =>
    if h : 16 + n < 64 then (expandFrom w n).set (16 + n) (scheduleWord (expandFrom w n) (16 + n) h)
    else expandFrom w n

/-- The sixteen key words at indices 0 to 15, zeros above (those are overwritten before they are read, R116). -/
def keyPadded (k : Vector Word 16) : Vector Word 64 :=
  Vector.ofFn fun i : Fin 64 => if h : i.val < 16 then k[i.val] else 0

/-- `EXPANDW(k)` (R113). -/
def expandW (k : Vector Word 16) : Vector Word 64 := expandFrom (keyPadded k) 48

end Sys2Proof.Machine
end

