-- ==== Sys2Proof/Machine/Engine.lean ====
section
/-! DEFINITION. The round-transform engine (42_round_engine.md): SLOAD, RSTEP, and the pure functions `ENCRYPTW` and
`ENCRYPTB`. -/

namespace Sys2Proof.Machine

/-- SLOAD (R131; assumption log 8). -/
def execSload (s : State) : Result := .next s.loadData

/-- RSTEP `i` (R132), then the advance of `SEQ` (R161), where `SEQ` selects it (R78, R160). -/
def execRstep (i : BitVec 6) (s : State) : Result :=
  if s.PHASE = .round ∧ s.IDX = i then .next (s.applyRound i).advance
  else .fault .notSelected

/-- The state after the first `n` rounds, at most 64 (R136: `st_0 = p`, `st_(i+1) = ROUNDFN(st_i, w[i], K[i])`). -/
def roundsFrom (kt w : Vector Word 64) (p : Vector Word 8) : Nat → Vector Word 8
  | 0 => p
  | n + 1 => if h : n < 64 then roundFn (roundsFrom kt w p n) w[n] kt[n] else roundsFrom kt w p n

/-- `ENCRYPTW(k, p)` over a round-constant table `kt` (R136; 93_implementation_defined.md, closing note). -/
def encryptW (kt : Vector Word 64) (k : Vector Word 16) (p : Vector Word 8) : Vector Word 8 :=
  roundsFrom kt (expandW k) p 64

/-- `ENCRYPTB(key, data)` over a round-constant table `kt`: the source's function boundary, in bytes (R136). -/
def encryptB (kt : Vector Word 64) (key : Vector Byte 64) (data : Vector Byte 32) : Vector Byte 32 :=
  outBytes (encryptW kt (keyWords key) (ptWords data))

end Sys2Proof.Machine
end

