-- ==== Sys2Proof/Machine/HostCommands.lean ====
section
/-! DEFINITION. The meanings of the seven host commands and of an illegal command word (43_host_commands.md). -/

namespace Sys2Proof.Machine

/-- NOP (R151). -/
def execNop (s : State) : Result := .next (s.command .nop fun s => s.respond .ok 0)

/-- CLR (R152). -/
def execClr (s : State) : Result := .next (s.command .clr State.endCall)

/-- PUSHK (R153). -/
def execPushk (b : Byte) (s : State) : Result := .next (s.command .pushk fun s => s.pushKey b)

/-- PUSHD (R154). -/
def execPushd (b : Byte) (s : State) : Result := .next (s.command .pushd fun s => s.pushData b)

/-- START (R155). -/
def execStart (s : State) : Result := .next (s.command .start State.startCall)

/-- RDST (R156). -/
def execRdst (s : State) : Result := .next (s.command .rdst fun s => s.respond .ok s.status)

/-- RDOUT (R157). -/
def execRdout (j : BitVec 5) (s : State) : Result :=
  .next (s.command .rdout fun s => s.respond .ok (outByte s.S j.toFin))

/-- An illegal command word: no state change and `respond(ILLEGAL, 0x00)` in every phase (R158). -/
def execIllegal (_c : CmdWord) (s : State) : Result := .next (s.respond .illegal 0)

end Sys2Proof.Machine
end

