-- ==== Sys2Proof/Machine/Library.lean ====
section
/-! DEFINITION. The meanings of the fourteen format `F` rows: each evaluates its library function (40_bitmix.md) and
changes nothing of the hardware's state (R103); the result stands in the model's own field `fnOut` (assumption
log 5). -/

namespace Sys2Proof.Machine

/-- ADD32 (R90). -/
def execAdd32 (a b : Word) (more : List Word) (s : State) : Result := .next (s.setFnOut (.word (add32 a b more)))

/-- ROTR (R91). -/
def execRotr (x : Word) (n : Fin 32) (s : State) : Result := .next (s.setFnOut (.word (rotr x n.val)))

/-- SHR (R92). -/
def execShr (x : Word) (n : Fin 32) (s : State) : Result := .next (s.setFnOut (.word (shr x n.val)))

/-- SIGMA0S (R93). -/
def execSigma0s (x : Word) (s : State) : Result := .next (s.setFnOut (.word (sigma0s x)))

/-- SIGMA1S (R94). -/
def execSigma1s (x : Word) (s : State) : Result := .next (s.setFnOut (.word (sigma1s x)))

/-- SIGMA0B (R95). -/
def execSigma0b (x : Word) (s : State) : Result := .next (s.setFnOut (.word (sigma0b x)))

/-- SIGMA1B (R96). -/
def execSigma1b (x : Word) (s : State) : Result := .next (s.setFnOut (.word (sigma1b x)))

/-- CH (R97). -/
def execCh (x y z : Word) (s : State) : Result := .next (s.setFnOut (.word (ch x y z)))

/-- MAJ (R98). -/
def execMaj (x y z : Word) (s : State) : Result := .next (s.setFnOut (.word (maj x y z)))

/-- REV32 (R99). -/
def execRev32 (x : Word) (s : State) : Result := .next (s.setFnOut (.word (rev32 x)))

/-- BE32 (R100). -/
def execBe32 (b0 b1 b2 b3 : Byte) (s : State) : Result := .next (s.setFnOut (.word (be32 b0 b1 b2 b3)))

/-- LE32 (R101). -/
def execLe32 (b0 b1 b2 b3 : Byte) (s : State) : Result := .next (s.setFnOut (.word (le32 b0 b1 b2 b3)))

/-- BEBYTES (R102). -/
def execBebytes (x : Word) (s : State) : Result := .next (s.setFnOut (.ofBytes (beBytes x)))

/-- LEBYTES (R102). -/
def execLebytes (x : Word) (s : State) : Result := .next (s.setFnOut (.ofBytes (leBytes x)))

end Sys2Proof.Machine
end

