-- ==== Sys2Proof/Machine/Dispatch.lean ====
section
/-! DEFINITION. One arm per operation of the hardware, each one call of its meaning. -/

namespace Sys2Proof.Machine

def exec (i : Instr) (s : State) : Host.Outcome State Fault Refusal :=
  match i with
  | .nop => Sys2Proof.Machine.execNop s
  | .clr => Sys2Proof.Machine.execClr s
  | .pushk b => Sys2Proof.Machine.execPushk b s
  | .pushd b => Sys2Proof.Machine.execPushd b s
  | .start => Sys2Proof.Machine.execStart s
  | .rdst => Sys2Proof.Machine.execRdst s
  | .rdout j => Sys2Proof.Machine.execRdout j s
  | .illegal c => Sys2Proof.Machine.execIllegal c s
  | .xstep n => Sys2Proof.Machine.execXstep n s
  | .rstep n => Sys2Proof.Machine.execRstep n s
  | .kload => Sys2Proof.Machine.execKload s
  | .sload => Sys2Proof.Machine.execSload s
  | .add32 a b more => Sys2Proof.Machine.execAdd32 a b more s
  | .rotr x n => Sys2Proof.Machine.execRotr x n s
  | .shr x n => Sys2Proof.Machine.execShr x n s
  | .sigma0s x => Sys2Proof.Machine.execSigma0s x s
  | .sigma1s x => Sys2Proof.Machine.execSigma1s x s
  | .sigma0b x => Sys2Proof.Machine.execSigma0b x s
  | .sigma1b x => Sys2Proof.Machine.execSigma1b x s
  | .ch x y z => Sys2Proof.Machine.execCh x y z s
  | .maj x y z => Sys2Proof.Machine.execMaj x y z s
  | .rev32 x => Sys2Proof.Machine.execRev32 x s
  | .be32 b0 b1 b2 b3 => Sys2Proof.Machine.execBe32 b0 b1 b2 b3 s
  | .le32 b0 b1 b2 b3 => Sys2Proof.Machine.execLe32 b0 b1 b2 b3 s
  | .bebytes x => Sys2Proof.Machine.execBebytes x s
  | .lebytes x => Sys2Proof.Machine.execLebytes x s

end Sys2Proof.Machine
end

