-- ==== Sys2Proof/Machine/Operands.lean ====
section
/-! DEFINITION. The fields of a command word and of a sequencer word, the two operand forms (R75), and which command
words are illegal (R76). -/

namespace Sys2Proof.Machine

/-- `CMD[15:12]`, the opcode (R70). -/
def opField (c : CmdWord) : BitVec 4 := c.extractLsb' 12 4

/-- `CMD[11:8]`, reserved, must be zero (R70). -/
def rsvField (c : CmdWord) : BitVec 4 := c.extractLsb' 8 4

/-- `CMD[7:0]`, the operand byte (R70). -/
def argField (c : CmdWord) : Byte := c.extractLsb' 0 8

/-- The operand form `imm8`: `CMD[7:0]` as an unsigned byte, with no extension, scaling or shifting (R75). -/
def imm8 (c : CmdWord) : Byte := c.extractLsb' 0 8

/-- The operand form `idx5`: `CMD[4:0]` as an unsigned index 0 to 31 (R75). -/
def idx5 (c : CmdWord) : BitVec 5 := c.extractLsb' 0 5

/-- `SEQ[8:6]`, the phase code (R32). -/
def seqPhase (q : SeqWord) : BitVec 3 := q.extractLsb' 6 3

/-- `SEQ[5:0]`, the index (R32). -/
def seqIdx (q : SeqWord) : BitVec 6 := q.extractLsb' 0 6

/-- The illegal command words, field by field as R76 lists them. (The decoder follows the match and mask columns of
R72 instead; that the two agree is a statement.) -/
def illegalWord (c : CmdWord) : Bool :=
  (7 ≤ (opField c).toNat) || (rsvField c != 0) ||
  (((opField c == 0) || (opField c == 1) || (opField c == 4) || (opField c == 5)) && (argField c != 0)) ||
  ((opField c == 6) && ((argField c).extractLsb' 5 3 != 0))

end Sys2Proof.Machine
end

