-- ==== Sys2Proof/WellFormed.lean ====
section
/-! DEFINITION. Which terms of `Instr` stand for an operation of the hardware. Widths and ranges that one operand has
by itself are in its type (`Fin 32`, `BitVec 5`, "two or more words"); two checks remain. -/

namespace Sys2Proof

/-- Well-formed operations: `illegal` carries a word that encodes no command (R76), and XSTEP's index is 16 to 63
(R112, R78). -/
def Instr.wf : Instr → Bool
  | .illegal c => Machine.illegalWord c
  | .xstep i => 16 ≤ i.toNat
  | .nop | .clr | .pushk _ | .pushd _ | .start | .rdst | .rdout _ => true
  | .rstep _ | .kload | .sload => true
  | .add32 _ _ _ | .rotr _ _ | .shr _ _ | .sigma0s _ | .sigma1s _ | .sigma0b _ | .sigma1b _ => true
  | .ch _ _ _ | .maj _ _ _ | .rev32 _ | .be32 _ _ _ _ | .le32 _ _ _ _ | .bebytes _ | .lebytes _ => true

end Sys2Proof
end

