-- ==== Sys2Proof/Decode.lean ====
section
/-! DEFINITION. The decoder, total on every command word and every sequencer word, and after it the encoder. -/

namespace Sys2Proof

/-- Why a sequencer word selects no micro-operation. -/
inductive DecodeError where
  /-- The word of IDLE, DONE or ERROR: the sequencer has no step (R78, R160). -/
  | noStep
  /-- A word R78 calls unreachable: a phase code 5 to 7, EXPAND with an index below 16, or IDLE, DONE or ERROR with an
  index other than 0 (R78, R41; 93_implementation_defined.md U3). -/
  | unreachable
deriving DecidableEq, Repr

/-- The command a 16-bit command word encodes, by the match and mask columns of R72; every other word is the ILLEGAL
row of the opcode table, which keeps the word (R76). -/
def decodeCmd (c : CmdWord) : Instr :=
  if c &&& 0xFFFF#16 = 0x0000#16 then .nop
  else if c &&& 0xFFFF#16 = 0x1000#16 then .clr
  else if c &&& 0xFF00#16 = 0x2000#16 then .pushk (Machine.imm8 c)
  else if c &&& 0xFF00#16 = 0x3000#16 then .pushd (Machine.imm8 c)
  else if c &&& 0xFFFF#16 = 0x4000#16 then .start
  else if c &&& 0xFFFF#16 = 0x5000#16 then .rdst
  else if c &&& 0xFFE0#16 = 0x6000#16 then .rdout (Machine.idx5 c)
  else .illegal c

/-- The micro-operation a sequencer word selects, by the match and mask of R78 with XSTEP's side condition
`SEQ[5:0] ≥ 16`. -/
def decodeSeq (q : SeqWord) : Except DecodeError Instr :=
  if q &&& 0x1C0#9 = 0x040#9 then
    if 16 ≤ (Machine.seqIdx q).toNat then .ok (.xstep (Machine.seqIdx q)) else .error .unreachable
  else if q &&& 0x1C0#9 = 0x080#9 then .ok (.rstep (Machine.seqIdx q))
  else if q = 0x000#9 then .error .noStep
  else if q = 0x0C0#9 then .error .noStep
  else if q = 0x100#9 then .error .noStep
  else .error .unreachable

/-- The decoder of both kinds of word. -/
def decode : Code → Except DecodeError Instr
  | .cmd c => .ok (decodeCmd c)
  | .seq q => decodeSeq q

/-- The word that encodes an operation: R72 for host commands, R78 for micro-operations. KLOAD and SLOAD are parts of
START and the library functions are combinational blocks: they have no encoding (R111, R131, 40_bitmix.md). -/
def encode : Instr → Option Code
  | .nop => some (.cmd 0x0000#16)
  | .clr => some (.cmd 0x1000#16)
  | .pushk b => some (.cmd (0x20#8 ++ b))
  | .pushd b => some (.cmd (0x30#8 ++ b))
  | .start => some (.cmd 0x4000#16)
  | .rdst => some (.cmd 0x5000#16)
  | .rdout j => some (.cmd (0x300#11 ++ j))
  | .illegal c => some (.cmd c)
  | .xstep i => some (.seq (0b001#3 ++ i))
  | .rstep i => some (.seq (0b010#3 ++ i))
  | .kload | .sload => none
  | .add32 _ _ _ | .rotr _ _ | .shr _ _ | .sigma0s _ | .sigma1s _ | .sigma0b _ | .sigma1b _ => none
  | .ch _ _ _ | .maj _ _ _ | .rev32 _ | .be32 _ _ _ _ | .le32 _ _ _ _ | .bebytes _ | .lebytes _ => none

/-- Whether a word of the opcode table is one of the sequencer's rows: nine bits with `SEQ[8:6]` the phase code of
EXPAND or ROUND (the table's match and mask of XSTEP and RSTEP). -/
def isSeqRow (w : Nat) : Bool := w < 512 && (w / 64 == 1 || w / 64 == 2)

/-- The operation the decoder reads from a word numbered as spec/opcode_table.json numbers it. The table has words of
two kinds, 16-bit command words and 9-bit sequencer words, told apart as `isSeqRow` says (assumption log 6). -/
def decodeTableWord (_nbits w : Nat) : Option Instr :=
  if isSeqRow w then
    match decode (.seq (BitVec.ofNat 9 w)) with
    | .ok i => some i
    | .error _ => none
  else if w < 65536 then
    match decode (.cmd (BitVec.ofNat 16 w)) with
    | .ok i => some i
    | .error _ => none
  else none

end Sys2Proof
end

