-- ==== Sys2Proof/Machine/Fetch.lean ====
section
/-! DEFINITION. Which step comes next (R15, R16): the head of `inputs` says whose turn it is; the operation comes from
the command word for a host command and from `SEQ` for the sequencer (R78, R150, R160). -/

namespace Sys2Proof.Machine

/-- What the next step is. -/
inductive Action where
  /-- Run this operation in this state (its event already taken from `inputs`). -/
  | run (i : Instr) (s : State)
  /-- Nothing of the hardware changes: a reset that has been performed, or a turn of a sequencer that has no step. -/
  | settle (s : State)
  /-- `SEQ` is a word R78 calls unreachable. -/
  | stuck
deriving DecidableEq, Repr

/-- Whether `SEQ` is a word a reachable state can hold (R78, R41). -/
def State.seqReachable (s : State) : Bool :=
  match decode (.seq s.seqWord) with
  | .error .unreachable => false
  | .error .noStep => true
  | .ok _ => true

/-- A turn of the sequencer: the micro-operation `SEQ` selects, or none in IDLE, DONE and ERROR (R160). -/
def State.sequencerTurn (s : State) : Action :=
  match decode (.seq s.seqWord) with
  | .ok i => .run i s
  | .error .noStep => .settle s
  | .error .unreachable => .stuck

/-- A turn of the host: the command its word encodes (R150). -/
def State.hostTurn (s : State) (c : CmdWord) : Action :=
  match s.seqReachable, decode (.cmd c) with
  | true, .ok i => .run i s
  | true, .error _ => .stuck
  | false, _ => .stuck

/-- The next step. With no event waiting it is the sequencer's turn: "a sequencer step needs no host command" (R160). A
reset "can occur in any state" (R210). -/
def State.nextAction (s : State) : Action :=
  match s.inputs with
  | [] => s.sequencerTurn
  | .tick :: es => (s.withInputs es).sequencerTurn
  | .cmd c :: es => (s.withInputs es).hostTurn c
  | .reset :: es => .settle (s.withInputs es).resetCore

/-- The state whose next step runs the opcode-table word `w`: a sequencer row's word becomes `SEQ` with the sequencer's
turn next, any other word becomes the next host command (assumption logs 6 and 7). -/
def State.placeTableWord (s : State) (w : Nat) : State :=
  if isSeqRow w then
    (s.setSeq (if w / 64 = 1 then .expand else .round) (BitVec.ofNat 6 w)).withInputs (.tick :: s.inputs)
  else s.withInputs (.cmd (BitVec.ofNat 16 w) :: s.inputs)

end Sys2Proof.Machine
end

