-- ==== Sys2Proof/Machine/Perform.lean ====
section
/-! DEFINITION. Performing the next action. -/

namespace Sys2Proof.Machine

/-- The outcome of an action: the operation's meaning, the settled state, or the fault of U3. -/
def Action.perform : Action → Host.Outcome State Fault Refusal
  | .run i t => exec i t
  | .settle t => .next t
  | .stuck => .fault .unreachableSeq

end Sys2Proof.Machine
end

