-- ==== Sys2Proof/Machine/Step.lean ====
section
/-! DEFINITION. The step of the machine. -/

namespace Sys2Proof.Machine

/-- One step (R15): a reset, a host command, or a sequencer step, as `nextAction` says. -/
def step (s : State) : Host.Outcome State Fault Refusal := s.nextAction.perform

/-- `s` with the opcode-table word `w` placed where the next step takes its operation (assumption log 7). -/
def State.withFetchWord (s : State) (_nbits w : Nat) : State := s.placeTableWord w

end Sys2Proof.Machine
end

