-- ==== Sys2Proof/Machine/Pseudo.lean ====
section
/-! DEFINITION. The pseudo-commands as event lists (R80, R81): notation for the sequences of commands a host issues,
with no effect of their own. -/

namespace Sys2Proof.Machine

/-- A host command as the next event, by its encoding (R80); an operation that is no command word gives none. -/
def asm (i : Instr) : List Event :=
  match encode i with
  | some (.cmd c) => [.cmd c]
  | some (.seq _) => []
  | none => []

/-- `LOADK b0 b1 ...`: PUSHK of each byte in order (R81). -/
def loadK (key : List Byte) : List Event := (key.map fun b => asm (.pushk b)).flatten

/-- `LOADD b0 b1 ...`: PUSHD of each byte in order (R81). -/
def loadD (data : List Byte) : List Event := (data.map fun b => asm (.pushd b)).flatten

/-- `READBLK`: RDOUT 0, ..., RDOUT 31 (R81). -/
def readBlk : List Event := ((List.finRange 32).map fun j => asm (.rdout (BitVec.ofFin j))).flatten

/-- What can happen during `WAIT`: a turn of the sequencer, or an RDST of the host. How many RDST there are and where
they fall is not fixed (R81, R58; 93_implementation_defined.md U6). -/
def isWaitEvent (e : Event) : Bool := e == .tick || e == .cmd 0x5000#16

/-- `ENCRYPT key data` (R81) with `wait` as what happens during its WAIT. -/
def encryptCall (key data : List Byte) (wait : List Event) : List Event :=
  asm .clr ++ loadK key ++ loadD data ++ asm .start ++ wait ++ readBlk

end Sys2Proof.Machine
end

