-- ==== Sys2Proof/Safety.lean ====
section
/-! DEFINITION. What the statements are about: the invariants of reachable states (R41), the schedule recurrence as a
property of 64 words (R113), and when two states are the same to every future step (R38). -/

namespace Sys2Proof.Machine

/-- The recurrence of R113 as a property: words 0 to 15 are the key, words 16 to 63 follow from earlier ones. -/
structure IsSchedule (k : Vector Word 16) (w : Vector Word 64) : Prop where
  key : ∀ (i : Nat) (h : i < 16), w[i] = k[i]
  derived : ∀ (i : Nat) (_ : 16 ≤ i) (h : i < 64),
    w[i] = sigma1s w[i - 2] + w[i - 7] + sigma0s w[i - 15] + w[i - 16]

/-- The invariants of reachable states (R41, item by item; item 1 is in the type of `PHASE`), with the contents of the
constant table (R24, R211). -/
structure State.Inv (s : State) : Prop where
  /-- R24, R211. -/
  rom : s.K = roundConstants
  /-- R41 item 2. -/
  err : s.ERR ≠ none ↔ s.PHASE = .error
  /-- R41 item 3, EXPAND. -/
  idxExpand : s.PHASE = .expand → 16 ≤ s.IDX.toNat
  /-- R41 item 3, the phases without a sequencer step. -/
  idxQuiet : s.busy = false → s.IDX = 0
  /-- R41 item 4. -/
  lengths : s.busy = true ∨ s.PHASE = .done → s.KLEN = 64 ∧ s.DLEN = 32
  /-- R41 item 5. -/
  expand : s.PHASE = .expand →
    (∀ (j : Nat) (h : j < 64), j < s.IDX.toNat → s.W[j] = (expandW (keyWords s.KB))[j]) ∧ s.S = ptWords s.DB
  /-- R41 item 6. -/
  round : s.PHASE = .round →
    s.W = expandW (keyWords s.KB) ∧ s.S = roundsFrom s.K s.W (ptWords s.DB) s.IDX.toNat
  /-- R41 item 7. -/
  done : s.PHASE = .done → s.S = encryptW s.K (keyWords s.KB) (ptWords s.DB)
  /-- R41 item 8, the bounds of the counters. -/
  bounds : s.KLEN ≤ 65 ∧ s.DLEN ≤ 33

/-- Two states that differ at most in cells R38 says no rule reads before they are written: key and data bytes not
pushed since the last CLR or reset, schedule words not yet derived, and all four arrays in phases that do not use
them. -/
structure SameLive (s t : State) : Prop where
  K : s.K = t.K
  KLEN : s.KLEN = t.KLEN
  DLEN : s.DLEN = t.DLEN
  PHASE : s.PHASE = t.PHASE
  IDX : s.IDX = t.IDX
  ERR : s.ERR = t.ERR
  inputs : s.inputs = t.inputs
  rsps : s.rsps = t.rsps
  key : s.PHASE = .idle → ∀ (j : Nat) (h : j < 64), j < s.KLEN → s.KB[j] = t.KB[j]
  data : s.PHASE = .idle → ∀ (j : Nat) (h : j < 32), j < s.DLEN → s.DB[j] = t.DB[j]
  expand : s.PHASE = .expand → (∀ (j : Nat) (h : j < 64), j < s.IDX.toNat → s.W[j] = t.W[j]) ∧ s.S = t.S
  round : s.PHASE = .round →
    (∀ (j : Nat) (h : j < 64), s.IDX.toNat ≤ j → s.W[j] = t.W[j]) ∧ s.S = t.S
  done : s.PHASE = .done → s.S = t.S

/-- The machine ran `n` steps from `s` and is in `t`. -/
def Runs (n : Nat) (s t : State) : Prop := Host.Core.run Sys2Proof.core n s = .next t

end Sys2Proof.Machine
end

