-- ==== Sys2Proof/Certificates/Slice0/Obligations.lean ====
section
/-! DEFINITION. The statements for the provers. `inputs`, `rsps` and `fnOut` are the model's own fields (assumption log
3, 4 and 5); where a statement says that a response is given it says that `rsps` grows by that word. The contents of the
four arrays after reset are the model's choice (assumption log 1) and no statement rests on them. -/

open Sys2Proof Sys2Proof.Machine

/-! ### Encodings -/

/-- One word of each of the seven commands, one illegal word and four sequencer words, written out from the encodings of
R72 and R78, decode as the spec says (95_test_vectors.md section 5). -/
def Obligations.SpecWordsDecodeAsSpecified : Prop :=
  decode (.cmd 0b0000000000000000#16) = .ok .nop ∧
  decode (.cmd 0b0001000000000000#16) = .ok .clr ∧
  decode (.cmd 0b0010000010000000#16) = .ok (.pushk 0x80#8) ∧
  decode (.cmd 0b0011000011111111#16) = .ok (.pushd 0xFF#8) ∧
  decode (.cmd 0b0100000000000000#16) = .ok .start ∧
  decode (.cmd 0b0101000000000000#16) = .ok .rdst ∧
  decode (.cmd 0b0110000000011111#16) = .ok (.rdout 31#5) ∧
  decode (.cmd 0b0010000110000000#16) = .ok (.illegal 0x2180#16) ∧
  decode (.seq 0b001010000#9) = .ok (.xstep 16#6) ∧
  decode (.seq 0b010111111#9) = .ok (.rstep 63#6) ∧
  decode (.seq 0b011000000#9) = .error .noStep ∧
  decode (.seq 0b001001111#9) = .error .unreachable

/-- Decoding the word of a well-formed operation gives the operation back, with every operand at every value. -/
def Obligations.DecodeOfEncodeIsIdentity : Prop :=
  ∀ (i : Instr) (c : Code), i.wf = true → encode i = some c → decode c = .ok i

/-- An operation that decodes is well formed and has the word it was decoded from: no two words share a meaning. -/
def Obligations.EncodeOfDecodeIsIdentity : Prop :=
  ∀ (c : Code) (i : Instr), decode c = .ok i → i.wf = true ∧ encode i = some c

/-- The command words that decode to ILLEGAL are exactly those R76 lists: opcode 7 to 15, or a nonzero reserved field,
or NOP, CLR, START or RDST with a nonzero operand, or RDOUT with `arg[7:5]` nonzero. -/
def Obligations.IllegalWordsAreThoseListed : Prop :=
  ∀ c : CmdWord, decode (.cmd c) = .ok (.illegal c) ↔
    (7 ≤ c.toNat / 4096 ∨ c.toNat / 256 % 16 ≠ 0 ∨
      ((c.toNat / 4096 = 0 ∨ c.toNat / 4096 = 1 ∨ c.toNat / 4096 = 4 ∨ c.toNat / 4096 = 5) ∧ c.toNat % 256 ≠ 0) ∨
      (c.toNat / 4096 = 6 ∧ c.toNat % 256 / 32 ≠ 0))

/-- What `SEQ` selects in every state (R78): XSTEP `IDX` in EXPAND from index 16, RSTEP `IDX` in ROUND, no step in
IDLE, DONE and ERROR at index 0, and an unreachable word otherwise. -/
def Obligations.SequencerWordSelectsMicroOperation : Prop :=
  ∀ s : State, decode (.seq s.seqWord) =
    match s.PHASE with
    | .expand => if 16 ≤ s.IDX.toNat then .ok (.xstep s.IDX) else .error .unreachable
    | .round => .ok (.rstep s.IDX)
    | .idle | .done | .error => if s.IDX = 0 then .error .noStep else .error .unreachable

/-! ### Steps -/

/-- A host command at the head of the inputs: the step runs the decoded command in the state without that event. -/
def Obligations.StepRunsTheHostCommand : Prop :=
  ∀ (s : State) (c : CmdWord) (es : List Event) (i : Instr), s.inputs = .cmd c :: es →
    decode (.seq s.seqWord) ≠ .error .unreachable → decode (.cmd c) = .ok i →
    step s = exec i { s with inputs := es }

/-- A turn of the sequencer: the step runs the micro-operation `SEQ` selects. That it is the sequencer's turn where no
event waits is the model's choice, assumption log 3. -/
def Obligations.StepRunsTheSelectedMicroOperation : Prop :=
  ∀ (s : State) (es : List Event) (i : Instr), decode (.seq s.seqWord) = .ok i →
    (s.inputs = .tick :: es → step s = exec i { s with inputs := es }) ∧
    (s.inputs = [] → step s = exec i s)

/-- In IDLE, DONE and ERROR the sequencer is quiescent: its turn changes nothing but the list of events (R160, with
assumption log 3 for what a turn without a step does). -/
def Obligations.QuiescentSequencerTurnChangesNothing : Prop :=
  ∀ (s : State) (es : List Event), s.PHASE = .idle ∨ s.PHASE = .done ∨ s.PHASE = .error → s.IDX = 0 →
    (s.inputs = .tick :: es → step s = .next { s with inputs := es }) ∧
    (s.inputs = [] → step s = .next s)

/-- A reset in any state, also with a call in progress: `SEQ`, `ERR`, `KLEN`, `DLEN` as R210 says, `K` unchanged, no
response. (The values of the four arrays are the model's, assumption log 1, and not stated here.) -/
def Obligations.ResetIsPossibleInEveryState : Prop :=
  ∀ (s : State) (es : List Event), s.inputs = .reset :: es →
    ∃ t, step s = .next t ∧ t.PHASE = .idle ∧ t.IDX = 0 ∧ t.ERR = none ∧ t.KLEN = 0 ∧ t.DLEN = 0 ∧
      t.K = s.K ∧ t.rsps = s.rsps ∧ t.inputs = es

/-- A step stops exactly where U3 says a model should: no reset is next and `SEQ` is a word R78 calls unreachable. It
never refuses. (That the model stops there, and that a reset is taken also there, is its reading of U3 and R210,
assumption log 9.) -/
def Obligations.StepStopsOnlyOnUnreachableSeq : Prop :=
  ∀ s : State,
    (step s = .fault .unreachableSeq ↔
      s.inputs.head? ≠ some .reset ∧ decode (.seq s.seqWord) = .error .unreachable) ∧
    step s ≠ .fault .notSelected ∧ ∀ r, step s ≠ .refused r

/-! ### Host commands -/

/-- NOP: word 0x0000, accepted in every phase, answers OK with data 0 and changes nothing; 0x00dd with `dd` nonzero is
no NOP (R151). -/
def Obligations.NopAnswersOkAndChangesNothing : Prop :=
  encode .nop = some (.cmd 0x0000#16) ∧
  (∀ s : State, exec .nop s = .next { s with rsps := s.rsps ++ [0x0000#16] }) ∧
  (∀ dd : BitVec 8, dd ≠ 0 → decode (.cmd (0x00#8 ++ dd)) = .ok (.illegal (0x00#8 ++ dd)))

/-- RDST: in every phase, `respond(OK, STATUS)` with `STATUS = 000 ‖ ERR ‖ PHASE`, and nothing else changes
(R33, R156). -/
def Obligations.RdstAnswersStatus : Prop :=
  ∀ s : State, ∃ r : RspWord, exec .rdst s = .next { s with rsps := s.rsps ++ [r] } ∧
    r.toNat =
      (match s.ERR with | none => 0 | some .invalidKeyLength => 8 | some .invalidDataLength => 16) +
      (match s.PHASE with | .idle => 0 | .expand => 1 | .round => 2 | .done => 3 | .error => 4)

/-- CLR in IDLE, DONE and ERROR: counters, `ERR` and `SEQ` to zero, the four arrays kept, OK; in EXPAND and ROUND it is
refused and changes nothing (R152). -/
def Obligations.ClrEndsTheCallUnlessBusy : Prop :=
  ∀ s : State,
    (s.PHASE = .idle ∨ s.PHASE = .done ∨ s.PHASE = .error →
      exec .clr s = .next { s with
        KLEN := 0, DLEN := 0, ERR := none, PHASE := .idle, IDX := 0, rsps := s.rsps ++ [0x0000#16] }) ∧
    (s.PHASE = .expand ∨ s.PHASE = .round → exec .clr s = .next { s with rsps := s.rsps ++ [0x1000#16] })

/-- PUSHK in IDLE: the byte goes to `KB[KLEN]` while `KLEN < 64` and no other entry changes, `KLEN` counts and sticks at
65, the response is OK also when the byte is dropped; in every other phase the command is refused (R153). -/
def Obligations.PushkStoresAndCounts : Prop :=
  ∀ (s : State) (b : Byte),
    (s.PHASE = .idle → ∃ kb : Vector Byte 64,
      exec (.pushk b) s = .next { s with KB := kb, KLEN := min (s.KLEN + 1) 65, rsps := s.rsps ++ [0x0000#16] } ∧
      ∀ (j : Nat) (h : j < 64), kb[j] = if j = s.KLEN then b else s.KB[j]) ∧
    (s.PHASE ≠ .idle → exec (.pushk b) s = .next { s with rsps := s.rsps ++ [0x1000#16] })

/-- PUSHD in IDLE: the byte goes to `DB[DLEN]` while `DLEN < 32` and no other entry changes, `DLEN` counts and sticks at
33, the response is OK also when the byte is dropped; in every other phase the command is refused (R154). -/
def Obligations.PushdStoresAndCounts : Prop :=
  ∀ (s : State) (b : Byte),
    (s.PHASE = .idle → ∃ db : Vector Byte 32,
      exec (.pushd b) s = .next { s with DB := db, DLEN := min (s.DLEN + 1) 33, rsps := s.rsps ++ [0x0000#16] } ∧
      ∀ (j : Nat) (h : j < 32), db[j] = if j = s.DLEN then b else s.DB[j]) ∧
    (s.PHASE ≠ .idle → exec (.pushd b) s = .next { s with rsps := s.rsps ++ [0x1000#16] })

/-- START in IDLE with 64 key bytes and 32 data bytes: `W[0..15]` and `S[0..7]` are the big-endian words of the two
buffers, `W[16..63]` are kept, `SEQ` is (EXPAND, 16), the response is OK, and nothing else changes (R155, R111, R131,
R51). -/
def Obligations.StartLoadsKeyAndBlock : Prop :=
  ∀ s : State, s.PHASE = .idle → s.KLEN = 64 → s.DLEN = 32 →
    ∃ (w : Vector Word 64) (r : Vector Word 8),
      exec .start s = .next { s with
        W := w, S := r, PHASE := .expand, IDX := 16, rsps := s.rsps ++ [0x0000#16] } ∧
      (∀ (i : Nat) (h : i < 16), w[i].toNat =
        s.KB[4 * i].toNat * 2 ^ 24 + s.KB[4 * i + 1].toNat * 2 ^ 16 + s.KB[4 * i + 2].toNat * 2 ^ 8 +
          s.KB[4 * i + 3].toNat) ∧
      (∀ (i : Nat) (_ : 16 ≤ i) (h : i < 64), w[i] = s.W[i]) ∧
      (∀ (i : Nat) (h : i < 8), r[i].toNat =
        s.DB[4 * i].toNat * 2 ^ 24 + s.DB[4 * i + 1].toNat * 2 ^ 16 + s.DB[4 * i + 2].toNat * 2 ^ 8 +
          s.DB[4 * i + 3].toNat)

/-- The one exception: START in IDLE with a wrong length writes `ERR`, `SEQ` and the response and nothing else (R183),
InvalidKeyLength for every key length but 64 (R181) also when both are wrong (R184), InvalidDataLength for a good key
and every data length but 32 (R182). A START that is refused, or an illegal word, raises nothing (R184). A later RDST
returns 0x0C or 0x14 (R183). -/
def Obligations.StartRaisesLengthError : Prop :=
  (∀ s : State, s.PHASE = .idle → s.KLEN ≠ 64 →
    exec .start s = .next { s with
      ERR := some .invalidKeyLength, PHASE := .error, IDX := 0, rsps := s.rsps ++ [0x3001#16] }) ∧
  (∀ s : State, s.PHASE = .idle → s.KLEN = 64 → s.DLEN ≠ 32 →
    exec .start s = .next { s with
      ERR := some .invalidDataLength, PHASE := .error, IDX := 0, rsps := s.rsps ++ [0x3002#16] }) ∧
  (∀ s : State, s.PHASE ≠ .idle → exec .start s = .next { s with rsps := s.rsps ++ [0x1000#16] }) ∧
  (∀ (s : State) (c : CmdWord), exec (.illegal c) s = .next { s with rsps := s.rsps ++ [0x2000#16] }) ∧
  (∀ s : State, s.PHASE = .error →
    (s.ERR = some .invalidKeyLength → exec .rdst s = .next { s with rsps := s.rsps ++ [0x000C#16] }) ∧
    (s.ERR = some .invalidDataLength → exec .rdst s = .next { s with rsps := s.rsps ++ [0x0014#16] }))

/-- The output view: byte `j` of `OUT` is byte `j` of the eight state registers, most significant byte of `S[0]` first,
in every phase. RDOUT `j` (word 0x6000 + `j`) in DONE answers OK with that byte and changes nothing; in every other phase
it is refused and the response does not depend on `S` (R34, R157). -/
def Obligations.RdoutReadsCiphertextByteOnlyWhenDone : Prop :=
  ∀ (s : State) (j : Nat) (hj : j < 32),
    (∀ m : Nat, m < 8 → (outBytes s.S)[j].getLsbD m = s.S[j / 4].getLsbD (24 - 8 * (j % 4) + m)) ∧
    encode (.rdout (BitVec.ofNat 5 j)) = some (.cmd (BitVec.ofNat 16 (0x6000 + j))) ∧
    (s.PHASE = .done →
      exec (.rdout (BitVec.ofNat 5 j)) s = .next { s with rsps := s.rsps ++ [0x00#8 ++ (outBytes s.S)[j]] }) ∧
    (s.PHASE ≠ .done →
      exec (.rdout (BitVec.ofNat 5 j)) s = .next { s with rsps := s.rsps ++ [0x1000#16] })

/-- An illegal command word is answered 0x2000 in every phase and changes nothing; 0x7000, 0x4001, 0x6020 and 0x2180 are
such words (R158). -/
def Obligations.IllegalWordChangesNothing : Prop :=
  (∀ (s : State) (c : CmdWord), exec (.illegal c) s = .next { s with rsps := s.rsps ++ [0x2000#16] }) ∧
  (∀ (s : State) (c : CmdWord) (es : List Event), s.inputs = .cmd c :: es → illegalWord c = true →
    decode (.seq s.seqWord) ≠ .error .unreachable →
    step s = .next { s with inputs := es, rsps := s.rsps ++ [0x2000#16] }) ∧
  illegalWord 0x7000#16 = true ∧ illegalWord 0x4001#16 = true ∧ illegalWord 0x6020#16 = true ∧
  illegalWord 0x2180#16 = true

/-- The refusals of the acceptance table (R82): CLR while busy, PUSHK, PUSHD and START outside IDLE, RDOUT outside DONE
change no state and are answered 0x1000 (R159). -/
def Obligations.RefusedCommandsChangeNothing : Prop :=
  ∀ (s : State) (i : Instr),
    (i = .clr ∧ (s.PHASE = .expand ∨ s.PHASE = .round)) ∨
    ((i = .start ∨ (∃ b, i = .pushk b) ∨ ∃ b, i = .pushd b) ∧ s.PHASE ≠ .idle) ∨
    ((∃ j, i = .rdout j) ∧ s.PHASE ≠ .done) →
    exec i s = .next { s with rsps := s.rsps ++ [0x1000#16] }

/-! ### The operations of the load, the expander and the engine -/

/-- KLOAD writes `W[0..15]` from `KB`, big-endian, keeps `W[16..63]`, and changes nothing else (R111). As an
operation of its own it runs in every state: the model's choice, assumption log 8. -/
def Obligations.KloadLoadsKeyWords : Prop :=
  ∀ s : State, ∃ w : Vector Word 64, exec .kload s = .next { s with W := w } ∧
    (∀ (i : Nat) (h : i < 16),
      w[i] = s.KB[4 * i] ++ s.KB[4 * i + 1] ++ s.KB[4 * i + 2] ++ s.KB[4 * i + 3]) ∧
    ∀ (i : Nat) (_ : 16 ≤ i) (h : i < 64), w[i] = s.W[i]

/-- SLOAD writes `S[0..7]` from `DB`, big-endian, and changes nothing else (R131). As an operation of its own it runs in
every state: the model's choice, assumption log 8. -/
def Obligations.SloadLoadsPlaintextWords : Prop :=
  ∀ s : State, ∃ r : Vector Word 8, exec .sload s = .next { s with S := r } ∧
    ∀ (i : Nat) (h : i < 8),
      r[i] = s.DB[4 * i] ++ s.DB[4 * i + 1] ++ s.DB[4 * i + 2] ++ s.DB[4 * i + 3]

/-- XSTEP `n`, sequencer word `001 nnnnnn`, in EXPAND at index `n`, 16 to 63: `W[n]` is the sum mod 2^32 of the four terms read from the old `W`, no
other entry changes, `SEQ` advances to (EXPAND, n + 1) or from 63 to (ROUND, 0), and nothing else changes
(R112, R161). -/
def Obligations.XstepDerivesOneScheduleWord : Prop :=
  ∀ (s : State) (n : Nat) (_ : 16 ≤ n) (hn : n < 64), s.PHASE = .expand → s.IDX = BitVec.ofNat 6 n →
    encode (.xstep (BitVec.ofNat 6 n)) = some (.seq (BitVec.ofNat 9 (0b001000000 + n))) ∧
    ∃ w : Vector Word 64,
      exec (.xstep (BitVec.ofNat 6 n)) s = .next { s with
        W := w
        PHASE := if n = 63 then .round else .expand
        IDX := if n = 63 then 0 else BitVec.ofNat 6 (n + 1) } ∧
      w[n] = sigma1s s.W[n - 2] + s.W[n - 7] + sigma0s s.W[n - 15] + s.W[n - 16] ∧
      ∀ (j : Nat) (h : j < 64), j ≠ n → w[j] = s.W[j]

/-- RSTEP `n`, sequencer word `010 nnnnnn`, in ROUND at index `n`: the eight registers take the values of R132, all computed from the old eight,
`W[n]` and `K[n]`, `SEQ` advances to (ROUND, n + 1) or from 63 to (DONE, 0), and nothing else changes (R132, R134,
R161). -/
def Obligations.RstepAppliesOneRound : Prop :=
  ∀ (s : State) (n : Nat) (hn : n < 64), s.PHASE = .round → s.IDX = BitVec.ofNat 6 n →
    encode (.rstep (BitVec.ofNat 6 n)) = some (.seq (BitVec.ofNat 9 (0b010000000 + n))) ∧
    ∀ t1 t2 : Word,
      t1 = s.S[7] + sigma1b s.S[4] + ch s.S[4] s.S[5] s.S[6] + s.W[n] + s.K[n] →
      t2 = sigma0b s.S[0] + maj s.S[0] s.S[1] s.S[2] →
      exec (.rstep (BitVec.ofNat 6 n)) s = .next { s with
        S := #v[t1 + t2, s.S[0], s.S[1], s.S[2], s.S[3] + t1, s.S[4], s.S[5], s.S[6]]
        PHASE := if n = 63 then .done else .round
        IDX := if n = 63 then 0 else BitVec.ofNat 6 (n + 1) }

/-! ### The bit-mixing library -/

/-- ADD32: the sum of two or more words over the integers, reduced mod 2^32, with no other effect; it is also the word
sum reduced after every addition (R90). That executing a library function answers a state with its result in `fnOut` is
the model's choice here and in the statements below, assumption log 5. -/
def Obligations.AddIsSumModuloTwoPow32 : Prop :=
  ∀ (a b : Word) (more : List Word) (s : State), ∃ v : Word,
    exec (.add32 a b more) s = .next { s with fnOut := .word v } ∧
    v.toNat = (a.toNat + b.toNat + (more.map BitVec.toNat).sum) % 2 ^ 32 ∧
    v = more.foldl (· + ·) (a + b)

/-- ROTR and SHR bit by bit: bit `j` of `ROTR(x, n)` is bit `(j + n) mod 32` of `x`; bit `j` of `SHR(x, n)` is bit
`j + n` of `x` or 0, so its value is `floor(x / 2^n)`. Neither has another effect (R91, R92). -/
def Obligations.RotateAndShiftBitByBit : Prop :=
  ∀ (x : Word) (n : Fin 32) (s : State),
    (∃ v : Word, exec (.rotr x n) s = .next { s with fnOut := .word v } ∧
      ∀ j : Nat, j < 32 → v.getLsbD j = x.getLsbD ((j + n.val) % 32)) ∧
    (∃ v : Word, exec (.shr x n) s = .next { s with fnOut := .word v } ∧ v.toNat = x.toNat / 2 ^ n.val ∧
      ∀ j : Nat, j < 32 → v.getLsbD j = if j + n.val ≤ 31 then x.getLsbD (j + n.val) else false)

/-- The four sigma functions with the amounts of R93 to R96, stated with Lean's own rotation and shift of a word, and
with no other effect. -/
def Obligations.SigmaFunctionsHaveTheirAmounts : Prop :=
  ∀ (x : Word) (s : State),
    exec (.sigma0s x) s = .next { s with
      fnOut := .word (x.rotateRight 7 ^^^ x.rotateRight 18 ^^^ x >>> 3) } ∧
    exec (.sigma1s x) s = .next { s with
      fnOut := .word (x.rotateRight 17 ^^^ x.rotateRight 19 ^^^ x >>> 10) } ∧
    exec (.sigma0b x) s = .next { s with
      fnOut := .word (x.rotateRight 2 ^^^ x.rotateRight 13 ^^^ x.rotateRight 22) } ∧
    exec (.sigma1b x) s = .next { s with
      fnOut := .word (x.rotateRight 6 ^^^ x.rotateRight 11 ^^^ x.rotateRight 25) }

/-- The four sigma functions are linear over xor (R93 to R96). -/
def Obligations.SigmaFunctionsAreLinear : Prop :=
  ∀ x y : Word,
    sigma0s (x ^^^ y) = sigma0s x ^^^ sigma0s y ∧ sigma1s (x ^^^ y) = sigma1s x ^^^ sigma1s y ∧
    sigma0b (x ^^^ y) = sigma0b x ^^^ sigma0b y ∧ sigma1b (x ^^^ y) = sigma1b x ^^^ sigma1b y

/-- CH and MAJ bit by bit: where a bit of `x` is 1 CH takes the bit of `y`, else the bit of `z`; a bit of MAJ is 1 when
at least two of the three are. Their equal forms hold, and neither has another effect (R97, R98). -/
def Obligations.ChooseAndMajorityBitByBit : Prop :=
  ∀ (x y z : Word) (s : State),
    (∃ v : Word, exec (.ch x y z) s = .next { s with fnOut := .word v } ∧ v = z ^^^ (x &&& (y ^^^ z)) ∧
      ∀ j : Nat, v.getLsbD j = if x.getLsbD j then y.getLsbD j else z.getLsbD j) ∧
    (∃ v : Word, exec (.maj x y z) s = .next { s with fnOut := .word v } ∧
      v = (x &&& y) ||| (z &&& (x ||| y)) ∧
      ∀ j : Nat, v.getLsbD j =
        decide (2 ≤ (x.getLsbD j).toNat + (y.getLsbD j).toNat + (z.getLsbD j).toNat))

/-- REV32 reverses the four bytes; BE32 and LE32 weigh their bytes from the first or from the last; none has another
effect (R99, R100, R101). -/
def Obligations.WordsAreAssembledFromBytes : Prop :=
  ∀ (b0 b1 b2 b3 : Byte) (s : State),
    exec (.rev32 (b0 ++ b1 ++ b2 ++ b3)) s = .next { s with fnOut := .word (b3 ++ b2 ++ b1 ++ b0) } ∧
    (∃ v : Word, exec (.be32 b0 b1 b2 b3) s = .next { s with fnOut := .word v } ∧
      v.toNat = b0.toNat * 2 ^ 24 + b1.toNat * 2 ^ 16 + b2.toNat * 2 ^ 8 + b3.toNat) ∧
    (∃ v : Word, exec (.le32 b0 b1 b2 b3) s = .next { s with fnOut := .word v } ∧
      v.toNat = b3.toNat * 2 ^ 24 + b2.toNat * 2 ^ 16 + b1.toNat * 2 ^ 8 + b0.toNat)

/-- BEBYTES and LEBYTES split a word into its bytes, most or least significant first, with no other effect (R102). -/
def Obligations.WordsAreSplitIntoBytes : Prop :=
  ∀ (x : Word) (s : State),
    exec (.bebytes x) s = .next { s with
      fnOut := .bytes (x.extractLsb 31 24) (x.extractLsb 23 16) (x.extractLsb 15 8) (x.extractLsb 7 0) } ∧
    exec (.lebytes x) s = .next { s with
      fnOut := .bytes (x.extractLsb 7 0) (x.extractLsb 15 8) (x.extractLsb 23 16) (x.extractLsb 31 24) }

/-- The source's two-step byte conversions have the big-endian net effect, and splitting inverts assembling
(R52, R53, R101, R102). -/
def Obligations.TwoStepByteConversionIsBigEndian : Prop :=
  (∀ b0 b1 b2 b3 : Byte, rev32 (le32 b0 b1 b2 b3) = be32 b0 b1 b2 b3 ∧
    beBytes (be32 b0 b1 b2 b3) = (b0, b1, b2, b3) ∧ leBytes (le32 b0 b1 b2 b3) = (b0, b1, b2, b3)) ∧
  ∀ w : Word, rev32 (rev32 w) = w ∧ leBytes (rev32 w) = beBytes w ∧
    be32 (beBytes w).1 (beBytes w).2.1 (beBytes w).2.2.1 (beBytes w).2.2.2 = w

/-! ### The pure functions -/

/-- `EXPANDW`: words 0 to 15 are the key, words 16 to 63 follow by the recurrence, no other 64 words do so, and the zero
key gives the zero schedule (R113). -/
def Obligations.ExpandwIsTheUniqueSchedule : Prop :=
  (∀ k : Vector Word 16, IsSchedule k (expandW k)) ∧
  (∀ (k : Vector Word 16) (w : Vector Word 64), IsSchedule k w → w = expandW k) ∧
  expandW (Vector.replicate 16 0) = Vector.replicate 64 0

/-- The expander does not read what an earlier call left in `W[16..63]`: from any 64 words whose first sixteen are the
key, the 48 derivations give `EXPANDW` of the key (R116, R118). -/
def Obligations.StaleScheduleWordsAreOverwritten : Prop :=
  ∀ (k : Vector Word 16) (w : Vector Word 64), (∀ (i : Nat) (h : i < 16), w[i] = k[i]) →
    expandFrom w 48 = expandW k

/-- `ROUNDFN` gives the eight values of R133, and so does the source's ordered list of assignments with simultaneous
tuple assignments (R133). -/
def Obligations.RoundfnIsTheSourceAssignmentList : Prop :=
  ∀ (s0 s1 s2 s3 s4 s5 s6 s7 w k : Word),
    roundFn #v[s0, s1, s2, s3, s4, s5, s6, s7] w k =
      (let t1 := s7 + sigma1b s4 + ch s4 s5 s6 + w + k
       let t2 := sigma0b s0 + maj s0 s1 s2
       #v[t1 + t2, s0, s1, s2, s3 + t1, s4, s5, s6]) ∧
    roundFn #v[s0, s1, s2, s3, s4, s5, s6, s7] w k =
      (let t1 := s7 + sigma1b s4 + ch s4 s5 s6 + w + k
       let t2 := sigma0b s0 + maj s0 s1 s2
       let (s7, s6, s5) := (s6, s5, s4)
       let s4 := s3 + t1
       let (s3, s2, s1) := (s2, s1, s0)
       let s0 := t1 + t2
       #v[s0, s1, s2, s3, s4, s5, s6, s7])

/-- Every round depends on its schedule word and keeps the state apart: with the same word and constant two states that
become equal were equal, and with the same state and constant two words that give the same state are equal (the
consumption of R119; 95_test_vectors.md V9). -/
def Obligations.RoundIsInjectiveInStateAndInScheduleWord : Prop :=
  (∀ (st st' : Vector Word 8) (w k : Word), roundFn st w k = roundFn st' w k → st = st') ∧
  (∀ (st : Vector Word 8) (w w' k : Word), roundFn st w k = roundFn st w' k → w = w')

/-- Under one key no two plaintext blocks have the same ciphertext block (from the rounds of R136). -/
def Obligations.EncryptionIsInjectiveInTheBlock : Prop :=
  ∀ (kt : Vector Word 64) (k : Vector Word 16) (p p' : Vector Word 8),
    encryptW kt k p = encryptW kt k p' → p = p'

/-! ### Rules of the whole machine -/

/-- Nothing writes the round-constant table: no operation and no step, reset among them (R24, R211). -/
def Obligations.NothingWritesTheRoundConstants : Prop :=
  (∀ (i : Instr) (s t : State), exec i s = .next t → t.K = s.K) ∧
  (∀ s t : State, step s = .next t → t.K = s.K)

/-- In ROUND and DONE no step but a reset writes any `W[i]` (R117). -/
def Obligations.ScheduleIsReadOnlyOnceComplete : Prop :=
  ∀ s t : State, s.PHASE = .round ∨ s.PHASE = .done → s.inputs.head? ≠ some .reset → step s = .next t → t.W = s.W

/-- The key and data buffers are written only by PUSHK and PUSHD, or a reset, and only in IDLE, at the index the counter
gives; the counters are written only by these, by CLR or by a reset. Outside IDLE no step but a reset changes `KB` or `DB`,
and none but a reset or CLR changes the counters (R25, R26, R27, R28, R218). -/
def Obligations.KeyAndBlockAreFixedOutsideIdle : Prop :=
  (∀ s t : State, s.PHASE ≠ .idle → s.inputs.head? ≠ some .reset → step s = .next t →
    t.KB = s.KB ∧ t.DB = s.DB ∧
    (s.inputs.head? ≠ some (.cmd 0x1000#16) → t.KLEN = s.KLEN ∧ t.DLEN = s.DLEN)) ∧
  ∀ s t : State, s.inputs.head? ≠ some .reset → step s = .next t →
    (t.KB ≠ s.KB → s.PHASE = .idle ∧ ∃ (b : Byte) (h : s.KLEN < 64),
      s.inputs.head? = some (.cmd (0x20#8 ++ b)) ∧ t.KB = s.KB.set s.KLEN b h) ∧
    (t.DB ≠ s.DB → s.PHASE = .idle ∧ ∃ (b : Byte) (h : s.DLEN < 32),
      s.inputs.head? = some (.cmd (0x30#8 ++ b)) ∧ t.DB = s.DB.set s.DLEN b h) ∧
    (t.KLEN ≠ s.KLEN → s.inputs.head? = some (.cmd 0x1000#16) ∨
      (s.PHASE = .idle ∧ ∃ b : Byte, s.inputs.head? = some (.cmd (0x20#8 ++ b)))) ∧
    (t.DLEN ≠ s.DLEN → s.inputs.head? = some (.cmd 0x1000#16) ∨
      (s.PHASE = .idle ∧ ∃ b : Byte, s.inputs.head? = some (.cmd (0x30#8 ++ b))))

/-- The state registers are written only by the load of START in IDLE and by RSTEP in ROUND: any other step but a reset
keeps `S` (R22). -/
def Obligations.StateRegistersWrittenOnlyByLoadAndRound : Prop :=
  ∀ s t : State, s.inputs.head? ≠ some .reset → step s = .next t → t.S ≠ s.S →
    (s.PHASE = .idle ∧ s.inputs.head? = some (.cmd 0x4000#16) ∧ s.KLEN = 64 ∧ s.DLEN = 32) ∨
    (s.PHASE = .round ∧ (s.inputs = [] ∨ s.inputs.head? = some .tick))

/-- EXPAND and ROUND are left only by the sequencer's own completion at index 63, to ROUND and to DONE, or by a reset
(R210, R161, R188). -/
def Obligations.BusyPhasesEndOnlyByCompletionOrReset : Prop :=
  ∀ s t : State, step s = .next t → t.PHASE ≠ s.PHASE →
    (s.PHASE = .expand → s.inputs.head? ≠ some .reset →
      s.IDX = 63 ∧ t.PHASE = .round ∧ (s.inputs = [] ∨ s.inputs.head? = some .tick)) ∧
    (s.PHASE = .round → s.inputs.head? ≠ some .reset →
      s.IDX = 63 ∧ t.PHASE = .done ∧ (s.inputs = [] ∨ s.inputs.head? = some .tick))

/-- DONE and ERROR are stable: only CLR or a reset leaves them, to IDLE with `ERR` and both counters 0, and until then
`S`, `W`, `ERR`, the buffers and the counters keep their values (R162, R186, R187). -/
def Obligations.CallEndsAreStableUntilClrOrReset : Prop :=
  ∀ s t : State, s.PHASE = .done ∨ s.PHASE = .error → step s = .next t →
    if s.inputs.head? = some .reset ∨ s.inputs.head? = some (.cmd 0x1000#16) then
      t.PHASE = .idle ∧ t.IDX = 0 ∧ t.ERR = none ∧ t.KLEN = 0 ∧ t.DLEN = 0
    else
      t.PHASE = s.PHASE ∧ t.IDX = s.IDX ∧ t.ERR = s.ERR ∧ t.S = s.S ∧ t.W = s.W ∧ t.KB = s.KB ∧ t.DB = s.DB ∧
        t.KLEN = s.KLEN ∧ t.DLEN = s.DLEN

/-- Every host command word, legal or not, accepted or not, gets exactly one response, which is one of 0x0000, 0x00dd,
0x1000, 0x2000, 0x3001 and 0x3002; the other steps get none (R73, R74, R160, R210). -/
def Obligations.EveryCommandGetsExactlyOneResponse : Prop :=
  ∀ s t : State, step s = .next t →
    (∀ c, s.inputs.head? = some (.cmd c) → ∃ r : RspWord, t.rsps = s.rsps ++ [r] ∧
      (r.toNat < 256 ∨ r = 0x1000#16 ∨ r = 0x2000#16 ∨ r = 0x3001#16 ∨ r = 0x3002#16)) ∧
    ((∀ c, s.inputs.head? ≠ some (.cmd c)) → t.rsps = s.rsps)

/-- A step takes at most one event, and changes no event that has not happened yet (R15). -/
def Obligations.StepTakesOneEvent : Prop :=
  ∀ s t : State, step s = .next t → t.inputs = s.inputs.tail

/-! ### Invariants -/

/-- The state after reset satisfies the invariants of R41 and has R39's values: IDLE with index 0, no error, both counters
0, and so a status byte of 0x00. (The values of the four arrays are the model's, assumption log 1, and not stated here;
what `K` holds is `RoundConstantsAreCubeRootFractions`.) -/
def Obligations.ResetStateMeetsInvariants : Prop :=
  State.reset.Inv ∧ State.reset.PHASE = .idle ∧ State.reset.IDX = 0 ∧ State.reset.ERR = none ∧
    State.reset.KLEN = 0 ∧ State.reset.DLEN = 0 ∧ State.reset.status = 0x00#8

/-- Every step keeps the invariants of R41: whatever the interleaving of host and sequencer, the schedule, the running
state and at DONE the ciphertext are the ones of the pure functions. -/
def Obligations.EveryStepKeepsInvariants : Prop :=
  ∀ s t : State, s.Inv → step s = .next t → t.Inv

/-- In a state with the invariants a step never stops (R190), and the status byte is one of the six R33 lists. -/
def Obligations.InvariantStatesAlwaysStep : Prop :=
  ∀ s : State, s.Inv → (∃ t, step s = .next t) ∧
    (s.status = 0x00#8 ∨ s.status = 0x01#8 ∨ s.status = 0x02#8 ∨ s.status = 0x03#8 ∨ s.status = 0x0C#8 ∨
      s.status = 0x14#8)

/-! ### Whole calls -/

/-- Every interleaving of host commands with the 112 sequencer steps of a call gives the same result (R58, R161, R220,
R221): from (EXPAND, 16), with any events but resets among the first 111 sequencer turns, the state after the 112th
turn is DONE, `W` is the derived schedule, `S` the 64 rounds applied, the key, the block and the error register are as
before, and each command got one response. -/
def Obligations.EveryInterleavingReachesTheSameResult : Prop :=
  ∀ (s : State) (es rest : List Event), s.PHASE = .expand → s.IDX = 16 →
    s.inputs = es ++ .tick :: rest → .reset ∉ es → es.count .tick = 111 →
    ∃ t, Runs (es.length + 1) s t ∧ t.PHASE = .done ∧ t.IDX = 0 ∧ t.inputs = rest ∧
      t.W = expandFrom s.W 48 ∧ t.S = roundsFrom s.K t.W s.S 64 ∧ t.K = s.K ∧ t.KB = s.KB ∧ t.DB = s.DB ∧
      t.KLEN = s.KLEN ∧ t.DLEN = s.DLEN ∧ t.ERR = s.ERR ∧
      t.rsps.length = s.rsps.length + (es.length - 111)

/-- If START is accepted with `KLEN = 64` and `DLEN = 32`, then when DONE is reached `S = ENCRYPTW(KEYW, PTW)` and
`OUT = ENCRYPTB(KB, DB)`, and DONE is reached after 112 sequencer turns whatever the host does meanwhile (R139). -/
def Obligations.AcceptedCallComputesTheCiphertext : Prop :=
  ∀ (s : State) (es : List Event), s.PHASE = .idle → s.IDX = 0 → s.KLEN = 64 → s.DLEN = 32 →
    s.inputs = .cmd 0x4000#16 :: (es ++ [.tick]) → .reset ∉ es → es.count .tick = 111 →
    ∃ t, Runs (es.length + 2) s t ∧ t.PHASE = .done ∧
      t.S = encryptW s.K (keyWords s.KB) (ptWords s.DB) ∧ outBytes t.S = encryptB s.K s.KB s.DB

/-- The call-level contract (R163): `CLR; LOADK key; LOADD data; START; WAIT; READBLK` issued from IDLE, DONE or ERROR,
with byte strings of any length and, where START is accepted with good lengths, with any WAIT that gives the sequencer
its 112 turns (as fairness does, R221), is the source's function: InvalidKeyLength, InvalidDataLength, or the 32 bytes of
`ENCRYPTB(key, data)`. That a WAIT's turns of the sequencer in ERROR and DONE are steps, which change nothing, is the
model's choice, assumption log 3. -/
def Obligations.CallIsTheSourceFunction : Prop :=
  ∀ (s : State) (key data : List Byte) (wait : List Event),
    s.PHASE = .idle ∨ s.PHASE = .done ∨ s.PHASE = .error → s.IDX = 0 →
    (∀ e ∈ wait, isWaitEvent e = true) → (key.length = 64 → data.length = 32 → 112 ≤ wait.count .tick) →
    s.inputs = encryptCall key data wait →
    ∃ (t : State) (start : RspWord) (polls block : List RspWord),
      Runs (encryptCall key data wait).length s t ∧
      t.rsps = s.rsps ++ List.replicate (1 + key.length + data.length) 0x0000#16 ++ [start] ++ polls ++ block ∧
      polls.length = wait.count (.cmd 0x5000#16) ∧
      (key.length ≠ 64 →
        start = 0x3001#16 ∧ t.PHASE = .error ∧ t.ERR = some .invalidKeyLength ∧ t.W = s.W ∧ t.S = s.S ∧
          (∀ r ∈ polls, r = 0x000C#16) ∧ block = List.replicate 32 0x1000#16) ∧
      (key.length = 64 → data.length ≠ 32 →
        start = 0x3002#16 ∧ t.PHASE = .error ∧ t.ERR = some .invalidDataLength ∧ t.W = s.W ∧ t.S = s.S ∧
          (∀ r ∈ polls, r = 0x0014#16) ∧ block = List.replicate 32 0x1000#16) ∧
      (∀ (k : Vector Byte 64) (d : Vector Byte 32), key = k.toList → data = d.toList →
        start = 0x0000#16 ∧ t.PHASE = .done ∧ t.ERR = none ∧
          (∀ r ∈ polls, r = 0x0001#16 ∨ r = 0x0002#16 ∨ r = 0x0003#16) ∧
          block = (encryptB s.K k d).toList.map fun b => 0x00#8 ++ b)

/-- No step reads a cell before it is written in the same call (R38): two states that agree on everything but such cells
step to states that agree in the same way, with the same responses. -/
def Obligations.UnwrittenCellsAreNeverRead : Prop :=
  ∀ s s' t : State, SameLive s s' → step s = .next t → ∃ t', step s' = .next t' ∧ SameLive t t'

/-- No cross-call state (R140, R152): after CLR, whatever an earlier call left in the four arrays, every run of the same
events gets the same responses. -/
def Obligations.EarlierCallsAreUnobservable : Prop :=
  ∀ (s : State) (n : Nat) (a : Vector Word 8) (b : Vector Word 64) (c : Vector Byte 64) (d : Vector Byte 32)
    (u v t : State), (s.PHASE = .idle ∨ s.PHASE = .done ∨ s.PHASE = .error) →
    exec .clr s = .next u → v = { u with S := a, W := b, KB := c, DB := d } → Runs n u t →
    ∃ t', Runs n v t' ∧ t'.rsps = t.rsps ∧ t'.PHASE = t.PHASE ∧ t'.ERR = t.ERR

/-! ### The constant table -/

/-- What the round-constant table holds after reset (R24, R39): `K[i]` is the first 32 bits of the fractional part of the
cube root of the `i`-th prime, counted from 0, in exact arithmetic. With `a` the whole part of the cube root of `p`, the
integer `a * 2^32 + K[i]` is the floor of the cube root of `p` times `2^32`, so its cube is at most `p * 2^96` and the cube
of its successor is more. (The spec took this definition from general knowledge, 93_implementation_defined.md G1;
assumption log 2.) -/
def Obligations.RoundConstantsAreCubeRootFractions : Prop :=
  ∀ (i : Nat) (h : i < 64), ∃ a : Nat,
    (a * 2 ^ 32 + State.reset.K[i].toNat) ^ 3 ≤ Nat.nth Nat.Prime i * 2 ^ 96 ∧
    Nat.nth Nat.Prime i * 2 ^ 96 < (a * 2 ^ 32 + State.reset.K[i].toNat + 1) ^ 3
end

