-- ==== Sys2Proof/Laws/State.lean ====
section
/-! SUPPORT. One lemma per field per update of the state, each true by unfolding. -/

namespace Sys2Proof.Machine

section
variable (s : State)

@[simp] theorem State.respond_S (c : RspCode) (d : Byte) : (s.respond c d).S = s.S := rfl
@[simp] theorem State.respond_W (c : RspCode) (d : Byte) : (s.respond c d).W = s.W := rfl
@[simp] theorem State.respond_K (c : RspCode) (d : Byte) : (s.respond c d).K = s.K := rfl
@[simp] theorem State.respond_KB (c : RspCode) (d : Byte) : (s.respond c d).KB = s.KB := rfl
@[simp] theorem State.respond_DB (c : RspCode) (d : Byte) : (s.respond c d).DB = s.DB := rfl
@[simp] theorem State.respond_KLEN (c : RspCode) (d : Byte) : (s.respond c d).KLEN = s.KLEN := rfl
@[simp] theorem State.respond_DLEN (c : RspCode) (d : Byte) : (s.respond c d).DLEN = s.DLEN := rfl
@[simp] theorem State.respond_PHASE (c : RspCode) (d : Byte) : (s.respond c d).PHASE = s.PHASE := rfl
@[simp] theorem State.respond_IDX (c : RspCode) (d : Byte) : (s.respond c d).IDX = s.IDX := rfl
@[simp] theorem State.respond_ERR (c : RspCode) (d : Byte) : (s.respond c d).ERR = s.ERR := rfl
@[simp] theorem State.respond_inputs (c : RspCode) (d : Byte) : (s.respond c d).inputs = s.inputs := rfl
@[simp] theorem State.respond_rsps (c : RspCode) (d : Byte) : (s.respond c d).rsps = s.rsps ++ [rspWord c d] := rfl
@[simp] theorem State.respond_fnOut (c : RspCode) (d : Byte) : (s.respond c d).fnOut = s.fnOut := rfl

@[simp] theorem State.raise_S (e : LengthError) : (s.raise e).S = s.S := rfl
@[simp] theorem State.raise_W (e : LengthError) : (s.raise e).W = s.W := rfl
@[simp] theorem State.raise_K (e : LengthError) : (s.raise e).K = s.K := rfl
@[simp] theorem State.raise_KB (e : LengthError) : (s.raise e).KB = s.KB := rfl
@[simp] theorem State.raise_DB (e : LengthError) : (s.raise e).DB = s.DB := rfl
@[simp] theorem State.raise_KLEN (e : LengthError) : (s.raise e).KLEN = s.KLEN := rfl
@[simp] theorem State.raise_DLEN (e : LengthError) : (s.raise e).DLEN = s.DLEN := rfl
@[simp] theorem State.raise_PHASE (e : LengthError) : (s.raise e).PHASE = .error := rfl
@[simp] theorem State.raise_IDX (e : LengthError) : (s.raise e).IDX = 0 := rfl
@[simp] theorem State.raise_ERR (e : LengthError) : (s.raise e).ERR = some e := rfl
@[simp] theorem State.raise_inputs (e : LengthError) : (s.raise e).inputs = s.inputs := rfl
@[simp] theorem State.raise_rsps (e : LengthError) :
    (s.raise e).rsps =
      s.rsps ++ [rspWord .lenerr (e.code.setWidth 8)] := rfl
@[simp] theorem State.raise_fnOut (e : LengthError) : (s.raise e).fnOut = s.fnOut := rfl

@[simp] theorem State.endCall_S : s.endCall.S = s.S := rfl
@[simp] theorem State.endCall_W : s.endCall.W = s.W := rfl
@[simp] theorem State.endCall_K : s.endCall.K = s.K := rfl
@[simp] theorem State.endCall_KB : s.endCall.KB = s.KB := rfl
@[simp] theorem State.endCall_DB : s.endCall.DB = s.DB := rfl
@[simp] theorem State.endCall_KLEN : s.endCall.KLEN = 0 := rfl
@[simp] theorem State.endCall_DLEN : s.endCall.DLEN = 0 := rfl
@[simp] theorem State.endCall_PHASE : s.endCall.PHASE = .idle := rfl
@[simp] theorem State.endCall_IDX : s.endCall.IDX = 0 := rfl
@[simp] theorem State.endCall_ERR : s.endCall.ERR = none := rfl
@[simp] theorem State.endCall_inputs : s.endCall.inputs = s.inputs := rfl
@[simp] theorem State.endCall_rsps : s.endCall.rsps = s.rsps ++ [rspWord .ok 0] := rfl
@[simp] theorem State.endCall_fnOut : s.endCall.fnOut = s.fnOut := rfl

@[simp] theorem State.pushKey_S (b : Byte) : (s.pushKey b).S = s.S := rfl
@[simp] theorem State.pushKey_W (b : Byte) : (s.pushKey b).W = s.W := rfl
@[simp] theorem State.pushKey_K (b : Byte) : (s.pushKey b).K = s.K := rfl
@[simp] theorem State.pushKey_KB (b : Byte) :
    (s.pushKey b).KB =
      if h : s.KLEN < 64 then s.KB.set s.KLEN b else s.KB := rfl
@[simp] theorem State.pushKey_DB (b : Byte) : (s.pushKey b).DB = s.DB := rfl
@[simp] theorem State.pushKey_KLEN (b : Byte) : (s.pushKey b).KLEN = min (s.KLEN + 1) 65 := rfl
@[simp] theorem State.pushKey_DLEN (b : Byte) : (s.pushKey b).DLEN = s.DLEN := rfl
@[simp] theorem State.pushKey_PHASE (b : Byte) : (s.pushKey b).PHASE = s.PHASE := rfl
@[simp] theorem State.pushKey_IDX (b : Byte) : (s.pushKey b).IDX = s.IDX := rfl
@[simp] theorem State.pushKey_ERR (b : Byte) : (s.pushKey b).ERR = s.ERR := rfl
@[simp] theorem State.pushKey_inputs (b : Byte) : (s.pushKey b).inputs = s.inputs := rfl
@[simp] theorem State.pushKey_rsps (b : Byte) : (s.pushKey b).rsps = s.rsps ++ [rspWord .ok 0] := rfl
@[simp] theorem State.pushKey_fnOut (b : Byte) : (s.pushKey b).fnOut = s.fnOut := rfl

@[simp] theorem State.pushData_S (b : Byte) : (s.pushData b).S = s.S := rfl
@[simp] theorem State.pushData_W (b : Byte) : (s.pushData b).W = s.W := rfl
@[simp] theorem State.pushData_K (b : Byte) : (s.pushData b).K = s.K := rfl
@[simp] theorem State.pushData_KB (b : Byte) : (s.pushData b).KB = s.KB := rfl
@[simp] theorem State.pushData_DB (b : Byte) :
    (s.pushData b).DB =
      if h : s.DLEN < 32 then s.DB.set s.DLEN b else s.DB := rfl
@[simp] theorem State.pushData_KLEN (b : Byte) : (s.pushData b).KLEN = s.KLEN := rfl
@[simp] theorem State.pushData_DLEN (b : Byte) : (s.pushData b).DLEN = min (s.DLEN + 1) 33 := rfl
@[simp] theorem State.pushData_PHASE (b : Byte) : (s.pushData b).PHASE = s.PHASE := rfl
@[simp] theorem State.pushData_IDX (b : Byte) : (s.pushData b).IDX = s.IDX := rfl
@[simp] theorem State.pushData_ERR (b : Byte) : (s.pushData b).ERR = s.ERR := rfl
@[simp] theorem State.pushData_inputs (b : Byte) : (s.pushData b).inputs = s.inputs := rfl
@[simp] theorem State.pushData_rsps (b : Byte) : (s.pushData b).rsps = s.rsps ++ [rspWord .ok 0] := rfl
@[simp] theorem State.pushData_fnOut (b : Byte) : (s.pushData b).fnOut = s.fnOut := rfl

@[simp] theorem State.loadKey_S : s.loadKey.S = s.S := by dsimp only [State.loadKey]
@[simp] theorem State.loadKey_W : s.loadKey.W = keyLoaded s.KB s.W := by dsimp only [State.loadKey]
@[simp] theorem State.loadKey_K : s.loadKey.K = s.K := by dsimp only [State.loadKey]
@[simp] theorem State.loadKey_KB : s.loadKey.KB = s.KB := by dsimp only [State.loadKey]
@[simp] theorem State.loadKey_DB : s.loadKey.DB = s.DB := by dsimp only [State.loadKey]
@[simp] theorem State.loadKey_KLEN : s.loadKey.KLEN = s.KLEN := by dsimp only [State.loadKey]
@[simp] theorem State.loadKey_DLEN : s.loadKey.DLEN = s.DLEN := by dsimp only [State.loadKey]
@[simp] theorem State.loadKey_PHASE : s.loadKey.PHASE = s.PHASE := by dsimp only [State.loadKey]
@[simp] theorem State.loadKey_IDX : s.loadKey.IDX = s.IDX := by dsimp only [State.loadKey]
@[simp] theorem State.loadKey_ERR : s.loadKey.ERR = s.ERR := by dsimp only [State.loadKey]
@[simp] theorem State.loadKey_inputs : s.loadKey.inputs = s.inputs := by dsimp only [State.loadKey]
@[simp] theorem State.loadKey_rsps : s.loadKey.rsps = s.rsps := by dsimp only [State.loadKey]
@[simp] theorem State.loadKey_fnOut : s.loadKey.fnOut = s.fnOut := by dsimp only [State.loadKey]

@[simp] theorem State.loadData_S : s.loadData.S = ptWords s.DB := rfl
@[simp] theorem State.loadData_W : s.loadData.W = s.W := rfl
@[simp] theorem State.loadData_K : s.loadData.K = s.K := rfl
@[simp] theorem State.loadData_KB : s.loadData.KB = s.KB := rfl
@[simp] theorem State.loadData_DB : s.loadData.DB = s.DB := rfl
@[simp] theorem State.loadData_KLEN : s.loadData.KLEN = s.KLEN := rfl
@[simp] theorem State.loadData_DLEN : s.loadData.DLEN = s.DLEN := rfl
@[simp] theorem State.loadData_PHASE : s.loadData.PHASE = s.PHASE := rfl
@[simp] theorem State.loadData_IDX : s.loadData.IDX = s.IDX := rfl
@[simp] theorem State.loadData_ERR : s.loadData.ERR = s.ERR := rfl
@[simp] theorem State.loadData_inputs : s.loadData.inputs = s.inputs := rfl
@[simp] theorem State.loadData_rsps : s.loadData.rsps = s.rsps := rfl
@[simp] theorem State.loadData_fnOut : s.loadData.fnOut = s.fnOut := rfl

@[simp] theorem State.setSeq_S (p : Phase) (i : BitVec 6) : (s.setSeq p i).S = s.S := rfl
@[simp] theorem State.setSeq_W (p : Phase) (i : BitVec 6) : (s.setSeq p i).W = s.W := rfl
@[simp] theorem State.setSeq_K (p : Phase) (i : BitVec 6) : (s.setSeq p i).K = s.K := rfl
@[simp] theorem State.setSeq_KB (p : Phase) (i : BitVec 6) : (s.setSeq p i).KB = s.KB := rfl
@[simp] theorem State.setSeq_DB (p : Phase) (i : BitVec 6) : (s.setSeq p i).DB = s.DB := rfl
@[simp] theorem State.setSeq_KLEN (p : Phase) (i : BitVec 6) : (s.setSeq p i).KLEN = s.KLEN := rfl
@[simp] theorem State.setSeq_DLEN (p : Phase) (i : BitVec 6) : (s.setSeq p i).DLEN = s.DLEN := rfl
@[simp] theorem State.setSeq_PHASE (p : Phase) (i : BitVec 6) : (s.setSeq p i).PHASE = p := rfl
@[simp] theorem State.setSeq_IDX (p : Phase) (i : BitVec 6) : (s.setSeq p i).IDX = i := rfl
@[simp] theorem State.setSeq_ERR (p : Phase) (i : BitVec 6) : (s.setSeq p i).ERR = s.ERR := rfl
@[simp] theorem State.setSeq_inputs (p : Phase) (i : BitVec 6) : (s.setSeq p i).inputs = s.inputs := rfl
@[simp] theorem State.setSeq_rsps (p : Phase) (i : BitVec 6) : (s.setSeq p i).rsps = s.rsps := rfl
@[simp] theorem State.setSeq_fnOut (p : Phase) (i : BitVec 6) : (s.setSeq p i).fnOut = s.fnOut := rfl

@[simp] theorem State.deriveWord_S (i : BitVec 6) : (s.deriveWord i).S = s.S := rfl
@[simp] theorem State.deriveWord_W (i : BitVec 6) :
    (s.deriveWord i).W =
      s.W.set i.toNat (scheduleWord s.W i.toNat i.isLt) i.isLt := rfl
@[simp] theorem State.deriveWord_K (i : BitVec 6) : (s.deriveWord i).K = s.K := rfl
@[simp] theorem State.deriveWord_KB (i : BitVec 6) : (s.deriveWord i).KB = s.KB := rfl
@[simp] theorem State.deriveWord_DB (i : BitVec 6) : (s.deriveWord i).DB = s.DB := rfl
@[simp] theorem State.deriveWord_KLEN (i : BitVec 6) : (s.deriveWord i).KLEN = s.KLEN := rfl
@[simp] theorem State.deriveWord_DLEN (i : BitVec 6) : (s.deriveWord i).DLEN = s.DLEN := rfl
@[simp] theorem State.deriveWord_PHASE (i : BitVec 6) : (s.deriveWord i).PHASE = s.PHASE := rfl
@[simp] theorem State.deriveWord_IDX (i : BitVec 6) : (s.deriveWord i).IDX = s.IDX := rfl
@[simp] theorem State.deriveWord_ERR (i : BitVec 6) : (s.deriveWord i).ERR = s.ERR := rfl
@[simp] theorem State.deriveWord_inputs (i : BitVec 6) : (s.deriveWord i).inputs = s.inputs := rfl
@[simp] theorem State.deriveWord_rsps (i : BitVec 6) : (s.deriveWord i).rsps = s.rsps := rfl
@[simp] theorem State.deriveWord_fnOut (i : BitVec 6) : (s.deriveWord i).fnOut = s.fnOut := rfl

@[simp] theorem State.applyRound_S (i : BitVec 6) :
    (s.applyRound i).S =
      roundFn s.S (s.W[i.toNat]'i.isLt) (s.K[i.toNat]'i.isLt) := rfl
@[simp] theorem State.applyRound_W (i : BitVec 6) : (s.applyRound i).W = s.W := rfl
@[simp] theorem State.applyRound_K (i : BitVec 6) : (s.applyRound i).K = s.K := rfl
@[simp] theorem State.applyRound_KB (i : BitVec 6) : (s.applyRound i).KB = s.KB := rfl
@[simp] theorem State.applyRound_DB (i : BitVec 6) : (s.applyRound i).DB = s.DB := rfl
@[simp] theorem State.applyRound_KLEN (i : BitVec 6) : (s.applyRound i).KLEN = s.KLEN := rfl
@[simp] theorem State.applyRound_DLEN (i : BitVec 6) : (s.applyRound i).DLEN = s.DLEN := rfl
@[simp] theorem State.applyRound_PHASE (i : BitVec 6) : (s.applyRound i).PHASE = s.PHASE := rfl
@[simp] theorem State.applyRound_IDX (i : BitVec 6) : (s.applyRound i).IDX = s.IDX := rfl
@[simp] theorem State.applyRound_ERR (i : BitVec 6) : (s.applyRound i).ERR = s.ERR := rfl
@[simp] theorem State.applyRound_inputs (i : BitVec 6) : (s.applyRound i).inputs = s.inputs := rfl
@[simp] theorem State.applyRound_rsps (i : BitVec 6) : (s.applyRound i).rsps = s.rsps := rfl
@[simp] theorem State.applyRound_fnOut (i : BitVec 6) : (s.applyRound i).fnOut = s.fnOut := rfl

@[simp] theorem State.setFnOut_S (o : FnOut) : (s.setFnOut o).S = s.S := rfl
@[simp] theorem State.setFnOut_W (o : FnOut) : (s.setFnOut o).W = s.W := rfl
@[simp] theorem State.setFnOut_K (o : FnOut) : (s.setFnOut o).K = s.K := rfl
@[simp] theorem State.setFnOut_KB (o : FnOut) : (s.setFnOut o).KB = s.KB := rfl
@[simp] theorem State.setFnOut_DB (o : FnOut) : (s.setFnOut o).DB = s.DB := rfl
@[simp] theorem State.setFnOut_KLEN (o : FnOut) : (s.setFnOut o).KLEN = s.KLEN := rfl
@[simp] theorem State.setFnOut_DLEN (o : FnOut) : (s.setFnOut o).DLEN = s.DLEN := rfl
@[simp] theorem State.setFnOut_PHASE (o : FnOut) : (s.setFnOut o).PHASE = s.PHASE := rfl
@[simp] theorem State.setFnOut_IDX (o : FnOut) : (s.setFnOut o).IDX = s.IDX := rfl
@[simp] theorem State.setFnOut_ERR (o : FnOut) : (s.setFnOut o).ERR = s.ERR := rfl
@[simp] theorem State.setFnOut_inputs (o : FnOut) : (s.setFnOut o).inputs = s.inputs := rfl
@[simp] theorem State.setFnOut_rsps (o : FnOut) : (s.setFnOut o).rsps = s.rsps := rfl
@[simp] theorem State.setFnOut_fnOut (o : FnOut) : (s.setFnOut o).fnOut = o := rfl

@[simp] theorem State.resetCore_S : s.resetCore.S = State.reset.S := rfl
@[simp] theorem State.resetCore_W : s.resetCore.W = State.reset.W := rfl
@[simp] theorem State.resetCore_K : s.resetCore.K = s.K := rfl
@[simp] theorem State.resetCore_KB : s.resetCore.KB = State.reset.KB := rfl
@[simp] theorem State.resetCore_DB : s.resetCore.DB = State.reset.DB := rfl
@[simp] theorem State.resetCore_KLEN : s.resetCore.KLEN = State.reset.KLEN := rfl
@[simp] theorem State.resetCore_DLEN : s.resetCore.DLEN = State.reset.DLEN := rfl
@[simp] theorem State.resetCore_PHASE : s.resetCore.PHASE = State.reset.PHASE := rfl
@[simp] theorem State.resetCore_IDX : s.resetCore.IDX = State.reset.IDX := rfl
@[simp] theorem State.resetCore_ERR : s.resetCore.ERR = State.reset.ERR := rfl
@[simp] theorem State.resetCore_inputs : s.resetCore.inputs = s.inputs := rfl
@[simp] theorem State.resetCore_rsps : s.resetCore.rsps = s.rsps := rfl
@[simp] theorem State.resetCore_fnOut : s.resetCore.fnOut = State.reset.fnOut := rfl

@[simp] theorem State.withInputs_S (es : List Event) : (s.withInputs es).S = s.S := rfl
@[simp] theorem State.withInputs_W (es : List Event) : (s.withInputs es).W = s.W := rfl
@[simp] theorem State.withInputs_K (es : List Event) : (s.withInputs es).K = s.K := rfl
@[simp] theorem State.withInputs_KB (es : List Event) : (s.withInputs es).KB = s.KB := rfl
@[simp] theorem State.withInputs_DB (es : List Event) : (s.withInputs es).DB = s.DB := rfl
@[simp] theorem State.withInputs_KLEN (es : List Event) : (s.withInputs es).KLEN = s.KLEN := rfl
@[simp] theorem State.withInputs_DLEN (es : List Event) : (s.withInputs es).DLEN = s.DLEN := rfl
@[simp] theorem State.withInputs_PHASE (es : List Event) : (s.withInputs es).PHASE = s.PHASE := rfl
@[simp] theorem State.withInputs_IDX (es : List Event) : (s.withInputs es).IDX = s.IDX := rfl
@[simp] theorem State.withInputs_ERR (es : List Event) : (s.withInputs es).ERR = s.ERR := rfl
@[simp] theorem State.withInputs_inputs (es : List Event) : (s.withInputs es).inputs = es := rfl
@[simp] theorem State.withInputs_rsps (es : List Event) : (s.withInputs es).rsps = s.rsps := rfl
@[simp] theorem State.withInputs_fnOut (es : List Event) : (s.withInputs es).fnOut = s.fnOut := rfl

end

end Sys2Proof.Machine
end

