-- ==== Sys2Proof/Laws/Ops.lean ====
section
/-! SUPPORT. What the shared operations can do, said once: word sums, the entries of the views and of the two loads, the
round function by entry, the advance of the sequencer, the outcomes of a host command, and the inversion of `step`. -/

namespace Sys2Proof.Machine

/-! ### Sums -/

@[simp] theorem add32_nil (a b : Word) : add32 a b [] = a + b := by
  apply BitVec.eq_of_toNat_eq
  simp [add32]

@[simp] theorem add32_cons (a b x : Word) (more : List Word) : add32 a b (x :: more) = add32 (a + b) x more := by
  apply BitVec.eq_of_toNat_eq
  simp [add32, Nat.add_assoc]

/-! ### Entries of views, loads and the round function -/

@[simp] theorem keyWords_getElem (kb : Vector Byte 64) (i : Nat) (h : i < 16) :
    (keyWords kb)[i] = keyWord kb ⟨i, h⟩ := by
  simp [keyWords]

@[simp] theorem ptWords_getElem (db : Vector Byte 32) (i : Nat) (h : i < 8) :
    (ptWords db)[i] = ptWord db ⟨i, h⟩ := by
  simp [ptWords]

@[simp] theorem outBytes_getElem (r : Vector Word 8) (j : Nat) (h : j < 32) :
    (outBytes r)[j] = outByte r ⟨j, h⟩ := by
  simp [outBytes]

@[simp] theorem keyPadded_getElem (k : Vector Word 16) (i : Nat) (h : i < 64) :
    (keyPadded k)[i] = if h16 : i < 16 then k[i] else 0 := by
  simp [keyPadded]

theorem keyLoaded_low (kb : Vector Byte 64) (w : Vector Word 64) (i : Nat) (h : i < 16) :
    (keyLoaded kb w)[i] = keyWord kb ⟨i, h⟩ := by
  simp [keyLoaded, h]

theorem keyLoaded_high (kb : Vector Byte 64) (w : Vector Word 64) (i : Nat) (h16 : 16 ≤ i) (h : i < 64) :
    (keyLoaded kb w)[i] = w[i] := by
  simp [keyLoaded, Nat.not_lt.mpr h16]

theorem scheduleWord_eq (w : Vector Word 64) (i : Nat) (h : i < 64) :
    scheduleWord w i h = sigma1s w[i - 2] + w[i - 7] + sigma0s w[i - 15] + w[i - 16] := by
  simp [scheduleWord]

theorem roundT1_eq (st : Vector Word 8) (w k : Word) :
    roundT1 st w k = st[7] + sigma1b st[4] + ch st[4] st[5] st[6] + w + k := by
  simp [roundT1]

theorem roundT2_eq (st : Vector Word 8) : roundT2 st = sigma0b st[0] + maj st[0] st[1] st[2] := by
  simp [roundT2]

theorem roundFn_eq (st : Vector Word 8) (w k : Word) :
    roundFn st w k =
      #v[roundT1 st w k + roundT2 st, st[0], st[1], st[2], st[3] + roundT1 st w k, st[4], st[5], st[6]] := by
  simp [roundFn]

/-- Two schedules that agree below `i` give the same word at `i`. -/
theorem scheduleWord_congr (w w' : Vector Word 64) (i : Nat) (h16 : 16 ≤ i) (h : i < 64)
    (hw : ∀ (j : Nat) (hj : j < 64), j < i → w[j] = w'[j]) : scheduleWord w i h = scheduleWord w' i h := by
  simp only [scheduleWord_eq]
  rw [hw (i - 2) _ (by omega), hw (i - 7) _ (by omega), hw (i - 15) _ (by omega), hw (i - 16) _ (by omega)]

theorem expandFrom_succ (w : Vector Word 64) (n : Nat) (h : 16 + n < 64) :
    expandFrom w (n + 1) = (expandFrom w n).set (16 + n) (scheduleWord (expandFrom w n) (16 + n) h) := by
  simp [expandFrom, h]

theorem roundsFrom_succ (kt w : Vector Word 64) (p : Vector Word 8) (n : Nat) (h : n < 64) :
    roundsFrom kt w p (n + 1) = roundFn (roundsFrom kt w p n) w[n] kt[n] := by
  simp [roundsFrom, h]

/-! ### The advance of the sequencer -/

theorem idx_succ_toNat (i : BitVec 6) (h : i ≠ 63) : (i + 1).toNat = i.toNat + 1 := by
  have h63 : i.toNat ≠ 63 := fun e => h (BitVec.eq_of_toNat_eq e)
  have := i.isLt
  rw [BitVec.toNat_add]
  simp
  omega

theorem State.advance_expand (s : State) (h : s.PHASE = .expand) :
    s.advance = if s.IDX = 63 then s.setSeq .round 0 else s.setSeq .expand (s.IDX + 1) := by
  simp [State.advance, h]

theorem State.advance_expand_next (s : State) (h : s.PHASE = .expand) (h63 : s.IDX ≠ 63) :
    s.advance = s.setSeq .expand (s.IDX + 1) := by
  rw [s.advance_expand h, if_neg h63]

theorem State.advance_expand_last (s : State) (h : s.PHASE = .expand) (h63 : s.IDX = 63) :
    s.advance = s.setSeq .round 0 := by
  rw [s.advance_expand h, if_pos h63]

theorem State.advance_round (s : State) (h : s.PHASE = .round) :
    s.advance = if s.IDX = 63 then s.setSeq .done 0 else s.setSeq .round (s.IDX + 1) := by
  simp [State.advance, h]

theorem State.advance_round_next (s : State) (h : s.PHASE = .round) (h63 : s.IDX ≠ 63) :
    s.advance = s.setSeq .round (s.IDX + 1) := by
  rw [s.advance_round h, if_neg h63]

theorem State.advance_round_last (s : State) (h : s.PHASE = .round) (h63 : s.IDX = 63) :
    s.advance = s.setSeq .done 0 := by
  rw [s.advance_round h, if_pos h63]

/-- The advance writes nothing but `SEQ`. -/
theorem State.advance_frame (s : State) : ∃ p i, s.advance = s.setSeq p i := by
  unfold State.advance
  split
  · split <;> exact ⟨_, _, rfl⟩
  · split <;> exact ⟨_, _, rfl⟩
  all_goals exact ⟨s.PHASE, s.IDX, rfl⟩

/-! ### Host commands -/

/-- A legal command is performed or refused, as the acceptance table says. -/
theorem State.command_cases (s : State) (c : Command) (act : State → State) :
    (accepts c s.PHASE = true ∧ s.command c act = act s) ∨
    (accepts c s.PHASE = false ∧ s.command c act = s.respond .refused 0) := by
  unfold State.command
  cases accepts c s.PHASE <;> simp

/-- What START's action does: one of the two errors, or the load. -/
theorem State.startCall_cases (s : State) :
    (s.KLEN ≠ 64 ∧ s.startCall = s.raise .invalidKeyLength) ∨
    (s.KLEN = 64 ∧ s.DLEN ≠ 32 ∧ s.startCall = s.raise .invalidDataLength) ∨
    (s.KLEN = 64 ∧ s.DLEN = 32 ∧ s.startCall = (s.loadKey.loadData.setSeq .expand 16).respond .ok 0) := by
  unfold State.startCall
  by_cases hk : s.KLEN = 64
  · by_cases hd : s.DLEN = 32 <;> simp [hk, hd]
  · simp [hk]

theorem and_ffff (c : CmdWord) : c &&& 0xFFFF#16 = c := BitVec.and_allOnes

/-- What a command word does, legal or not, in any phase: it always completes, and either only answers (OK, REFUSED or
ILLEGAL), or it is an accepted CLR, PUSHK, PUSHD or START. -/
theorem exec_decodeCmd_cases (c : CmdWord) (s : State) : ∃ t, exec (decodeCmd c) s = .next t ∧
    ((∃ d, t = s.respond .ok d) ∨ t = s.respond .refused 0 ∨ t = s.respond .illegal 0 ∨
      (c = 0x1000#16 ∧ accepts .clr s.PHASE = true ∧ t = s.endCall) ∨
      (c &&& 0xFF00#16 = 0x2000#16 ∧ s.PHASE = .idle ∧ t = s.pushKey (imm8 c)) ∨
      (c &&& 0xFF00#16 = 0x3000#16 ∧ s.PHASE = .idle ∧ t = s.pushData (imm8 c)) ∨
      (c = 0x4000#16 ∧ s.PHASE = .idle ∧ t = s.startCall)) := by
  have idleOnly : ∀ p : Phase, (p == Phase.idle) = true → p = .idle := fun p h => eq_of_beq h
  unfold decodeCmd
  rw [and_ffff]
  split
  · exact ⟨_, rfl, .inl ⟨0, rfl⟩⟩
  split
  · next _ hc =>
    rcases s.command_cases .clr State.endCall with ⟨ha, e⟩ | ⟨-, e⟩
    · exact ⟨_, congrArg Host.Outcome.next e, .inr (.inr (.inr (.inl ⟨hc, ha, rfl⟩)))⟩
    · exact ⟨_, congrArg Host.Outcome.next e, .inr (.inl rfl)⟩
  split
  · next _ hc =>
    rcases s.command_cases .pushk (fun s => s.pushKey (imm8 c)) with ⟨ha, e⟩ | ⟨-, e⟩
    · exact ⟨_, congrArg Host.Outcome.next e, .inr (.inr (.inr (.inr (.inl ⟨hc, idleOnly _ ha, rfl⟩))))⟩
    · exact ⟨_, congrArg Host.Outcome.next e, .inr (.inl rfl)⟩
  split
  · next _ hc =>
    rcases s.command_cases .pushd (fun s => s.pushData (imm8 c)) with ⟨ha, e⟩ | ⟨-, e⟩
    · exact ⟨_, congrArg Host.Outcome.next e, .inr (.inr (.inr (.inr (.inr (.inl ⟨hc, idleOnly _ ha, rfl⟩)))))⟩
    · exact ⟨_, congrArg Host.Outcome.next e, .inr (.inl rfl)⟩
  split
  · next _ hc =>
    rcases s.command_cases .start State.startCall with ⟨ha, e⟩ | ⟨-, e⟩
    · exact ⟨_, congrArg Host.Outcome.next e, .inr (.inr (.inr (.inr (.inr (.inr ⟨hc, idleOnly _ ha, rfl⟩)))))⟩
    · exact ⟨_, congrArg Host.Outcome.next e, .inr (.inl rfl)⟩
  split
  · exact ⟨_, rfl, .inl ⟨_, rfl⟩⟩
  split
  · rcases s.command_cases .rdout (fun s => s.respond .ok (outByte s.S (idx5 c).toFin)) with ⟨-, e⟩ | ⟨-, e⟩
    · exact ⟨_, congrArg Host.Outcome.next e, .inl ⟨_, rfl⟩⟩
    · exact ⟨_, congrArg Host.Outcome.next e, .inr (.inl rfl)⟩
  · exact ⟨_, rfl, .inr (.inr (.inl rfl))⟩

/-! ### The sequencer -/

/-- What a turn of the sequencer is, in every state. -/
theorem State.sequencerTurn_cases (s : State) :
    (s.PHASE = .expand ∧ 16 ≤ s.IDX.toNat ∧ s.sequencerTurn = .run (.xstep s.IDX) s) ∨
    (s.PHASE = .round ∧ s.sequencerTurn = .run (.rstep s.IDX) s) ∨
    (s.busy = false ∧ s.IDX = 0 ∧ s.sequencerTurn = .settle s) ∨
    (s.seqReachable = false ∧ s.sequencerTurn = .stuck) := by
  obtain ⟨n, hn⟩ : ∃ n : Fin 64, s.IDX = BitVec.ofFin n := ⟨s.IDX.toFin, rfl⟩
  unfold State.sequencerTurn State.seqReachable State.seqWord State.busy
  generalize s.PHASE = p
  rw [hn]
  clear hn
  cases p <;> fin_cases n <;>
    first
    | exact .inr (.inr (.inl ⟨rfl, rfl, rfl⟩))
    | exact .inl ⟨rfl, by decide, rfl⟩
    | exact .inr (.inl ⟨rfl, rfl⟩)
    | exact .inr (.inr (.inr ⟨rfl, rfl⟩))

/-- A turn of the sequencer that runs a micro-operation always completes. -/
theorem exec_xstep_of_selected (s : State) (h : s.PHASE = .expand) (h16 : 16 ≤ s.IDX.toNat) :
    exec (.xstep s.IDX) s = .next (s.deriveWord s.IDX).advance := by
  simp [exec, execXstep, h, h16]

theorem exec_rstep_of_selected (s : State) (h : s.PHASE = .round) :
    exec (.rstep s.IDX) s = .next (s.applyRound s.IDX).advance := by
  simp [exec, execRstep, h]

/-! ### The step -/

@[simp] theorem Action.perform_run (i : Instr) (t : State) : (Action.run i t).perform = exec i t := rfl
@[simp] theorem Action.perform_settle (t : State) : (Action.settle t).perform = .next t := rfl
@[simp] theorem Action.perform_stuck : Action.stuck.perform = .fault .unreachableSeq := rfl

/-- Everything a step that completes can have done. -/
theorem step_cases {s t : State} (h : step s = .next t) :
    (∃ es, s.inputs = .reset :: es ∧ t = (s.withInputs es).resetCore) ∨
    (∃ c es, s.inputs = .cmd c :: es ∧ s.seqReachable = true ∧ exec (decodeCmd c) (s.withInputs es) = .next t) ∨
    ((s.inputs = [] ∨ ∃ es, s.inputs = .tick :: es) ∧
      ((s.PHASE = .expand ∧ 16 ≤ s.IDX.toNat ∧
          t = ((s.withInputs s.inputs.tail).deriveWord s.IDX).advance) ∨
        (s.PHASE = .round ∧ t = ((s.withInputs s.inputs.tail).applyRound s.IDX).advance) ∨
        (s.busy = false ∧ s.IDX = 0 ∧ t = s.withInputs s.inputs.tail))) := by
  have turn : ∀ u : State,
      u.sequencerTurn.perform = .next t →
      (u.PHASE = .expand ∧ 16 ≤ u.IDX.toNat ∧ t = (u.deriveWord u.IDX).advance) ∨
        (u.PHASE = .round ∧ t = (u.applyRound u.IDX).advance) ∨
        (u.busy = false ∧ u.IDX = 0 ∧ t = u) := by
    intro u hu
    rcases u.sequencerTurn_cases with ⟨hp, hi, e⟩ | ⟨hp, e⟩ | ⟨hp, hi, e⟩ | ⟨-, e⟩ <;> rw [e] at hu
    · rw [Action.perform_run, exec_xstep_of_selected u hp hi] at hu
      exact .inl ⟨hp, hi, (Host.Outcome.next.inj hu).symm⟩
    · rw [Action.perform_run, exec_rstep_of_selected u hp] at hu
      exact .inr (.inl ⟨hp, (Host.Outcome.next.inj hu).symm⟩)
    · exact .inr (.inr ⟨hp, hi, (Host.Outcome.next.inj hu).symm⟩)
    · cases hu
  unfold step State.nextAction at h
  cases hin : s.inputs with
  | nil =>
    rw [hin] at h
    have := turn s h
    have e : s.withInputs [] = s := by rw [← hin]; rfl
    exact .inr (.inr ⟨.inl rfl, by simpa [e] using this⟩)
  | cons e es =>
    rw [hin] at h
    cases e with
    | tick => exact .inr (.inr ⟨.inr ⟨es, rfl⟩, turn (s.withInputs es) h⟩)
    | reset => exact .inl ⟨es, rfl, (Host.Outcome.next.inj h).symm⟩
    | cmd c =>
      have hr : (s.withInputs es).seqReachable = s.seqReachable := rfl
      refine .inr (.inl ⟨c, es, rfl, ?_⟩)
      simp only [State.hostTurn, hr, decode] at h
      cases hs : s.seqReachable with
      | true => exact ⟨rfl, by simpa [hs] using h⟩
      | false => simp [hs] at h

/-- A host command at the head of the inputs, in a state whose `SEQ` is reachable, runs. -/
theorem step_cmd (s : State) (c : CmdWord) (es : List Event) (h : s.inputs = .cmd c :: es)
    (hr : s.seqReachable = true) : step s = exec (decodeCmd c) (s.withInputs es) := by
  have hr' : (s.withInputs es).seqReachable = true := hr
  simp [step, State.nextAction, h, State.hostTurn, hr', decode]

/-- A turn of the sequencer, whether given or by default. -/
theorem step_turn (s : State) (h : s.inputs = [] ∨ ∃ es, s.inputs = .tick :: es) :
    step s = (s.withInputs s.inputs.tail).sequencerTurn.perform := by
  rcases h with h | ⟨es, h⟩
  · have e : s.withInputs [] = s := by rw [← h]; rfl
    simp [step, State.nextAction, h, e]
  · simp [step, State.nextAction, h]

/-! ### Runs -/

theorem Runs.zero (s : State) : Runs 0 s s := rfl

theorem Runs.succ {n : Nat} {s t u : State} (h : step s = .next t) (h' : Runs n t u) : Runs (n + 1) s u := by
  have hc : Sys2Proof.core.step s = .next t := h
  unfold Runs at *
  simp [Host.Core.run, hc, h']

theorem Runs.succ_inv {n : Nat} {s u : State} (h : Runs (n + 1) s u) : ∃ t, step s = .next t ∧ Runs n t u := by
  unfold Runs at *
  cases hs : step s with
  | next t =>
    have hc : Sys2Proof.core.step s = .next t := hs
    exact ⟨t, rfl, by simpa [Host.Core.run, hc] using h⟩
  | fault r =>
    have hc : Sys2Proof.core.step s = .fault r := hs
    simp [Host.Core.run, hc] at h
  | refused r =>
    have hc : Sys2Proof.core.step s = .refused r := hs
    simp [Host.Core.run, hc] at h

theorem Runs.trans {m n : Nat} {s t u : State} (h : Runs m s t) (h' : Runs n t u) : Runs (m + n) s u := by
  induction m generalizing s with
  | zero =>
    cases h
    simpa using h'
  | succ m ih =>
    obtain ⟨v, hv, hr⟩ := h.succ_inv
    have e : m + 1 + n = (m + n) + 1 := by omega
    rw [e]
    exact Runs.succ hv (ih hr)

end Sys2Proof.Machine
end

