-- ==== Sys2Proof/Laws/PerInstr.lean ====
section
/-! SUPPORT. The family `CodeMatchesRow`: the encoder's word of every operation lies in its row of
spec/opcode_table.json. -/

namespace Sys2Proof.Laws

/-- What the opcode table gives a row: a match and mask over a command word, a match and mask over a sequencer word, the
ILLEGAL row (R76), or no encoding. -/
inductive TableRow where
  | cmd (mat mask : CmdWord)
  | seq (mat mask : SeqWord)
  | illegal
  | uncoded
deriving DecidableEq, Repr

/-- The row of each operation, from the table's columns match and mask. -/
def tableRow : Instr → TableRow
  | .nop => .cmd 0x0000#16 0xFFFF#16
  | .clr => .cmd 0x1000#16 0xFFFF#16
  | .pushk _ => .cmd 0x2000#16 0xFF00#16
  | .pushd _ => .cmd 0x3000#16 0xFF00#16
  | .start => .cmd 0x4000#16 0xFFFF#16
  | .rdst => .cmd 0x5000#16 0xFFFF#16
  | .rdout _ => .cmd 0x6000#16 0xFFE0#16
  | .illegal _ => .illegal
  | .xstep _ => .seq 0x040#9 0x1C0#9
  | .rstep _ => .seq 0x080#9 0x1C0#9
  | .kload | .sload => .uncoded
  | .add32 _ _ _ | .rotr _ _ | .shr _ _ | .sigma0s _ | .sigma1s _ | .sigma0b _ | .sigma1b _ => .uncoded
  | .ch _ _ _ | .maj _ _ _ | .rev32 _ | .be32 _ _ _ _ | .le32 _ _ _ _ | .bebytes _ | .lebytes _ => .uncoded

/-- Whether a code lies in a row; every command word may be tried against ILLEGAL, whose words are those of R76. -/
def inRow : Option Code → TableRow → Prop
  | some (.cmd c), .cmd mat mask => c &&& mask = mat
  | some (.seq q), .seq mat mask => q &&& mask = mat
  | some (.cmd c), .illegal => Machine.illegalWord c = true
  | none, .uncoded => True
  | _, _ => False

/-- A well-formed operation's word lies in the operation's row. -/
def CodeMatchesRow.Statement (i : Instr) : Prop := i.wf = true → inRow (encode i) (tableRow i)

theorem append_and_append {m n : Nat} (x y : BitVec m) (u v : BitVec n) :
    (x ++ u) &&& (y ++ v) = (x &&& y) ++ (u &&& v) := by
  ext j hj
  simp only [BitVec.getElem_and, BitVec.getElem_append]
  split <;> simp

theorem and_zeros {n : Nat} (u : BitVec n) : u &&& 0#n = 0#n := by
  simp

theorem CodeMatchesRow.nop : CodeMatchesRow.Statement .nop := fun _ => (by decide : _ = _)

theorem CodeMatchesRow.clr : CodeMatchesRow.Statement .clr := fun _ => (by decide : _ = _)

theorem CodeMatchesRow.pushk (b : Byte) : CodeMatchesRow.Statement (.pushk b) := by
  intro _
  show (0x20#8 ++ b) &&& (0xFF#8 ++ 0x00#8) = 0x20#8 ++ 0x00#8
  rw [append_and_append, and_zeros]
  rfl

theorem CodeMatchesRow.pushd (b : Byte) : CodeMatchesRow.Statement (.pushd b) := by
  intro _
  show (0x30#8 ++ b) &&& (0xFF#8 ++ 0x00#8) = 0x30#8 ++ 0x00#8
  rw [append_and_append, and_zeros]
  rfl

theorem CodeMatchesRow.start : CodeMatchesRow.Statement .start := fun _ => (by decide : _ = _)

theorem CodeMatchesRow.rdst : CodeMatchesRow.Statement .rdst := fun _ => (by decide : _ = _)

theorem CodeMatchesRow.rdout (j : BitVec 5) : CodeMatchesRow.Statement (.rdout j) := by
  intro _
  show (0x300#11 ++ j) &&& (0x7FF#11 ++ 0#5) = 0x300#11 ++ 0#5
  rw [append_and_append, and_zeros]
  rfl

theorem CodeMatchesRow.illegal (c : CmdWord) : CodeMatchesRow.Statement (.illegal c) := fun h => h

theorem CodeMatchesRow.xstep (i : BitVec 6) : CodeMatchesRow.Statement (.xstep i) := by
  intro _
  show (0b001#3 ++ i) &&& (0b111#3 ++ 0#6) = 0b001#3 ++ 0#6
  rw [append_and_append, and_zeros]
  rfl

theorem CodeMatchesRow.rstep (i : BitVec 6) : CodeMatchesRow.Statement (.rstep i) := by
  intro _
  show (0b010#3 ++ i) &&& (0b111#3 ++ 0#6) = 0b010#3 ++ 0#6
  rw [append_and_append, and_zeros]
  rfl

theorem CodeMatchesRow.kload : CodeMatchesRow.Statement .kload := fun _ => trivial

theorem CodeMatchesRow.sload : CodeMatchesRow.Statement .sload := fun _ => trivial

theorem CodeMatchesRow.add32 (a b : Word) (more : List Word) : CodeMatchesRow.Statement (.add32 a b more) := fun _ => trivial

theorem CodeMatchesRow.rotr (x : Word) (n : Fin 32) : CodeMatchesRow.Statement (.rotr x n) := fun _ => trivial

theorem CodeMatchesRow.shr (x : Word) (n : Fin 32) : CodeMatchesRow.Statement (.shr x n) := fun _ => trivial

theorem CodeMatchesRow.sigma0s (x : Word) : CodeMatchesRow.Statement (.sigma0s x) := fun _ => trivial

theorem CodeMatchesRow.sigma1s (x : Word) : CodeMatchesRow.Statement (.sigma1s x) := fun _ => trivial

theorem CodeMatchesRow.sigma0b (x : Word) : CodeMatchesRow.Statement (.sigma0b x) := fun _ => trivial

theorem CodeMatchesRow.sigma1b (x : Word) : CodeMatchesRow.Statement (.sigma1b x) := fun _ => trivial

theorem CodeMatchesRow.ch (x y z : Word) : CodeMatchesRow.Statement (.ch x y z) := fun _ => trivial

theorem CodeMatchesRow.maj (x y z : Word) : CodeMatchesRow.Statement (.maj x y z) := fun _ => trivial

theorem CodeMatchesRow.rev32 (x : Word) : CodeMatchesRow.Statement (.rev32 x) := fun _ => trivial

theorem CodeMatchesRow.be32 (b0 b1 b2 b3 : Byte) : CodeMatchesRow.Statement (.be32 b0 b1 b2 b3) := fun _ => trivial

theorem CodeMatchesRow.le32 (b0 b1 b2 b3 : Byte) : CodeMatchesRow.Statement (.le32 b0 b1 b2 b3) := fun _ => trivial

theorem CodeMatchesRow.bebytes (x : Word) : CodeMatchesRow.Statement (.bebytes x) := fun _ => trivial

theorem CodeMatchesRow.lebytes (x : Word) : CodeMatchesRow.Statement (.lebytes x) := fun _ => trivial

end Sys2Proof.Laws
end

