-- ==== Sys2Proof/Laws/Pseudo.lean ====
section
/-! SUPPORT. The events of the pseudo-commands, written out. -/

namespace Sys2Proof.Machine

@[simp] theorem asm_clr : asm .clr = [.cmd 0x1000#16] := rfl
@[simp] theorem asm_start : asm .start = [.cmd 0x4000#16] := rfl
@[simp] theorem asm_pushk (b : Byte) : asm (.pushk b) = [.cmd (0x20#8 ++ b)] := rfl
@[simp] theorem asm_pushd (b : Byte) : asm (.pushd b) = [.cmd (0x30#8 ++ b)] := rfl
@[simp] theorem asm_rdout (j : BitVec 5) : asm (.rdout j) = [.cmd (0x300#11 ++ j)] := rfl

@[simp] theorem loadK_nil : loadK [] = [] := rfl
@[simp] theorem loadD_nil : loadD [] = [] := rfl

@[simp] theorem loadK_cons (b : Byte) (bs : List Byte) : loadK (b :: bs) = .cmd (0x20#8 ++ b) :: loadK bs := rfl
@[simp] theorem loadD_cons (b : Byte) (bs : List Byte) : loadD (b :: bs) = .cmd (0x30#8 ++ b) :: loadD bs := rfl

@[simp] theorem loadK_length (key : List Byte) : (loadK key).length = key.length := by
  induction key with
  | nil => rfl
  | cons b bs ih => simp [ih]

@[simp] theorem loadD_length (data : List Byte) : (loadD data).length = data.length := by
  induction data with
  | nil => rfl
  | cons b bs ih => simp [ih]

theorem readBlk_length : readBlk.length = 32 := by decide

end Sys2Proof.Machine
end

