-- ==== Sys2Proof/Tests/Slice0.lean ====
section
/-! SUPPORT. The model's own tests, with values from the spec (30_encoding.md, 40_bitmix.md, 95_test_vectors.md), and for
every statement with hypotheses a state and operands that meet them. -/

namespace Sys2Proof.Tests

open Sys2Proof.Machine

/-- A state in a phase at an index, everything else as after reset. -/
def at' (p : Phase) (i : BitVec 6) : State := { State.reset with PHASE := p, IDX := i }

/-- A state in IDLE with these counts. -/
def counts (k d : Nat) : State := { State.reset with KLEN := k, DLEN := d }

/-- The outcome is a next state with this property. -/
def nextIs (r : Result) (p : State → Bool) : Bool :=
  match r with
  | .next t => p t
  | .fault _ => false
  | .refused _ => false

/-! ### Well-formedness -/

theorem test_wf_refuses_legal_word_as_illegal : (Instr.illegal 0x2080#16).wf = false := by decide
theorem test_wf_refuses_xstep_below_16 : (Instr.xstep 15#6).wf = false := by decide
theorem test_wf_accepts_xstep_16_and_illegal : (Instr.xstep 16#6).wf && (Instr.illegal 0x2180#16).wf = true := by decide

/-! ### Decoding: words written out bit by bit from R72 and R78 -/

theorem test_decode_nop : decode (.cmd 0b0000000000000000#16) = .ok .nop := rfl
theorem test_decode_clr : decode (.cmd 0b0001000000000000#16) = .ok .clr := rfl
theorem test_decode_pushk : decode (.cmd 0b0010000010000001#16) = .ok (.pushk 0b10000001#8) := rfl
theorem test_decode_pushd : decode (.cmd 0b0011000001111110#16) = .ok (.pushd 0b01111110#8) := rfl
theorem test_decode_start : decode (.cmd 0b0100000000000000#16) = .ok .start := rfl
theorem test_decode_rdst : decode (.cmd 0b0101000000000000#16) = .ok .rdst := rfl
theorem test_decode_rdout : decode (.cmd 0b0110000000010001#16) = .ok (.rdout 0b10001#5) := rfl
theorem test_decode_illegal_rdout_bit5 : decode (.cmd 0b0110000000100000#16) = .ok (.illegal 0x6020#16) := rfl
theorem test_decode_illegal_reserved : decode (.cmd 0b0101000100000000#16) = .ok (.illegal 0x5100#16) := rfl
theorem test_decode_xstep : decode (.seq 0b001010010#9) = .ok (.xstep 0b010010#6) := rfl
theorem test_decode_rstep : decode (.seq 0b010000101#9) = .ok (.rstep 0b000101#6) := rfl
theorem test_decode_done_has_no_step : decode (.seq 0b011000000#9) = .error .noStep := rfl
theorem test_decode_phase_5_unreachable : decode (.seq 0b101000000#9) = .error .unreachable := rfl
theorem test_table_words : decodeTableWord 16 0x203F = some (.pushk 0x3F#8) ∧
    decodeTableWord 16 0x050 = some (.xstep 16#6) ∧ decodeTableWord 16 0x0BF = some (.rstep 63#6) ∧
    decodeTableWord 16 0x7000 = some (.illegal 0x7000#16) ∧ decodeTableWord 16 0x04F = none := by decide

/-! ### Host commands, each as one step (95_test_vectors.md sections 5 to 7) -/

theorem test_nop_answers_ok_while_busy :
    nextIs (step ((at' .round 5).withInputs [.cmd 0x0000#16])) (fun t => t.rsps == [0x0000#16] && t.IDX == 5) = true := by
  decide
theorem test_clr_refused_while_busy :
    nextIs (step ((at' .expand 26).withInputs [.cmd 0x1000#16])) (fun t => t.rsps == [0x1000#16] && t.IDX == 26) = true := by
  decide
theorem test_clr_in_done : nextIs (step ({ at' .done 0 with KLEN := 64, DLEN := 32 }.withInputs [.cmd 0x1000#16]))
    (fun t => t.rsps == [0x0000#16] && t.PHASE == .idle && t.KLEN == 0 && t.DLEN == 0) = true := by decide
theorem test_pushk_first_byte : nextIs (step (State.reset.withInputs [.cmd 0x2080#16]))
    (fun t => t.KB[0] == 0x80#8 && t.KLEN == 1 && t.rsps == [0x0000#16]) = true := by decide
theorem test_pushk_drops_byte_66 : nextIs (step ((counts 65 0).withInputs [.cmd 0x20AA#16]))
    (fun t => t.KB == State.reset.KB && t.KLEN == 65 && t.rsps == [0x0000#16]) = true := by decide
theorem test_pushd_last_byte : nextIs (step ((counts 0 31).withInputs [.cmd 0x30FF#16]))
    (fun t => t.DB[31] == 0xFF#8 && t.DB[30] == 0#8 && t.DLEN == 32) = true := by decide
theorem test_pushd_refused_when_done : nextIs (step ((at' .done 0).withInputs [.cmd 0x3055#16]))
    (fun t => t.rsps == [0x1000#16] && t.DLEN == 0) = true := by decide
theorem test_start_key_error_first : nextIs (step ((counts 63 31).withInputs [.cmd 0x4000#16]))
    (fun t => t.rsps == [0x3001#16] && t.PHASE == .error && t.status == 0x0C#8) = true := by decide
theorem test_start_data_error : nextIs (step ((counts 64 33).withInputs [.cmd 0x4000#16]))
    (fun t => t.rsps == [0x3002#16] && t.PHASE == .error && t.status == 0x14#8) = true := by decide
theorem test_rdst_round : nextIs (step ((at' .round 0).withInputs [.cmd 0x5000#16]))
    (fun t => t.rsps == [0x0002#16]) = true := by decide
theorem test_rdout_byte_order : nextIs (step ({ at' .done 0 with
      S := #v[0x361AB632, 0, 0, 0, 0, 0, 0, 0xF6202BAE] }.withInputs [.cmd 0x6001#16]))
    (fun t => t.rsps == [0x001A#16]) = true := by decide
theorem test_rdout_31 : nextIs (step ({ at' .done 0 with
      S := #v[0x361AB632, 0, 0, 0, 0, 0, 0, 0xF6202BAE] }.withInputs [.cmd 0x601F#16]))
    (fun t => t.rsps == [0x00AE#16]) = true := by decide
theorem test_illegal_word : nextIs (step (State.reset.withInputs [.cmd 0x2180#16]))
    (fun t => t.rsps == [0x2000#16] && t.KLEN == 0) = true := by decide

/-! ### Expander and engine: vector V1 (95_test_vectors.md section 3) -/

theorem test_kload_first_word : nextIs (exec .kload { State.reset with KB := State.reset.KB.set 0 0x80 })
    (fun t => t.W[0] == 0x80000000#32 && t.W[1] == 0#32) = true := by decide
theorem test_sload_byte_order : nextIs (exec .sload { State.reset with DB := (State.reset.DB.set 31 0x1F).set 28 0x1C })
    (fun t => t.S[7] == 0x1C00001F#32 && t.S[0] == 0#32) = true := by decide
theorem test_xstep_18 : nextIs (step { at' .expand 18 with W := State.reset.W.set 16 0x80000000 })
    (fun t => t.W[18] == 0x00205000#32 && t.IDX == 19 && t.PHASE == .expand) = true := by decide
theorem test_xstep_63_enters_round : nextIs (step (at' .expand 63)) (fun t => t.PHASE == .round && t.IDX == 0) = true := by
  decide
theorem test_rstep_1_of_v1 : nextIs (step { at' .round 1 with S := #v[0xC28A2F98, 0, 0, 0, 0xC28A2F98, 0, 0, 0] })
    (fun t => t.S == #v[0xAB17F6E8, 0xC28A2F98, 0, 0, 0x463CFA2B, 0xC28A2F98, 0, 0] && t.IDX == 2) = true := by decide
theorem test_rstep_63_of_v1 : nextIs (step { at' .round 63 with
      S := #v[0x2FA9E7A7, 0xBB23818D, 0x839E01BD, 0xA1DC5806, 0x05426EDD, 0x297AEDB9, 0xF6202BAE, 0x356C21B1],
      W := State.reset.W.set 63 0x3B5EC49B })
    (fun t => t.S[0] == 0x361AB632#32 && t.S[4] == 0xDAFDF473#32 && t.PHASE == .done) = true := by decide

/-! ### Library (95_test_vectors.md section 2) -/

theorem test_add32_five : nextIs (exec (.add32 0xFFFFFFFF 0xFFFFFFFF [0xFFFFFFFF, 0xFFFFFFFF, 0xFFFFFFFF]) State.reset)
    (fun t => t.fnOut == .word 0xFFFFFFFB) = true := by decide
theorem test_rotr : (rotr 0x12345678 4, rotr 0x00000001 31, rotr 0x12345678 0) =
    (0x81234567, 0x00000002, 0x12345678) := by decide
theorem test_shr : (shr 0x80000000 3, shr 0x12345678 10, shr 0x000003FF 10) =
    (0x10000000, 0x00048D15, 0x00000000) := by decide
theorem test_sigma0s : (sigma0s 0x12345678, sigma0s 0x80000000) = (0xE7FCE6EE, 0x11002000) := by decide
theorem test_sigma1s : (sigma1s 0x12345678, sigma1s 0x00010203) = (0xA1F78649, 0xA141E040) := by decide
theorem test_sigma0b : (sigma0b 0x12345678, sigma0b 0x6A09E667) = (0x66146474, 0xCE20B47E) := by decide
theorem test_sigma1b : (sigma1b 0x12345678, sigma1b 0x6A09E667) = (0x3561ABDA, 0x55B65510) := by decide
theorem test_ch : (ch 0x510E527F 0x9B05688C 0x1F83D9AB, ch 0xF0F0F0F0 0xAAAAAAAA 0x55555555) =
    (0x1F85C98C, 0xA5A5A5A5) := by decide
theorem test_maj : (maj 0x6A09E667 0xBB67AE85 0x3C6EF372, maj 0 0x12345678 0x9ABCDEF0) =
    (0x3A6FE667, 0x12345670) := by decide
theorem test_rev32 : rev32 0x12345678 = 0x78563412 := by decide
theorem test_be32 : be32 0x00 0x01 0x02 0x03 = 0x00010203 := by decide
theorem test_le32 : le32 0x00 0x01 0x02 0x03 = 0x03020100 := by decide
theorem test_bebytes : nextIs (exec (.bebytes 0x361AB632) State.reset)
    (fun t => t.fnOut == .bytes 0x36 0x1A 0xB6 0x32) = true := by decide
theorem test_lebytes : nextIs (exec (.lebytes 0x32B61A36) State.reset)
    (fun t => t.fnOut == .bytes 0x36 0x1A 0xB6 0x32) = true := by decide
theorem test_library_from_exec : nextIs (exec (.rotr 0x00000003 2) State.reset) (fun t => t.fnOut == .word 0xC0000000) = true ∧
    nextIs (exec (.rev32 0xFF) State.reset) (fun t => t.fnOut == .word 0xFF000000) = true := by decide

/-! ### Witnesses: the hypotheses of each statement can be met -/

theorem witness_DecodeOfEncodeIsIdentity :
    ((Instr.xstep 16#6).wf = true ∧ encode (.xstep 16#6) = some (.seq 0x050#9)) ∧
    ((Instr.illegal 0xFFFF#16).wf = true ∧ encode (.illegal 0xFFFF#16) = some (.cmd 0xFFFF#16)) ∧
    ((Instr.rdout 31#5).wf = true ∧ encode (.rdout 31#5) = some (.cmd 0x601F#16)) := by decide

theorem witness_EncodeOfDecodeIsIdentity :
    decode (.cmd 0x20FF#16) = .ok (.pushk 0xFF#8) ∧ decode (.seq 0x07F#9) = .ok (.xstep 63#6) := ⟨rfl, rfl⟩

theorem witness_StepRunsTheHostCommand :
    ∃ s : State, s.inputs = .cmd 0x2055#16 :: [] ∧ decode (.seq s.seqWord) ≠ .error .unreachable ∧
      decode (.cmd 0x2055#16) = .ok (.pushk 0x55#8) :=
  ⟨State.reset.withInputs [.cmd 0x2055#16], rfl, fun h => (by cases h), rfl⟩

theorem witness_StepRunsTheSelectedMicroOperation :
    (∃ s : State, decode (.seq s.seqWord) = .ok (.xstep 16#6) ∧ s.inputs = .tick :: []) ∧
    (∃ s : State, decode (.seq s.seqWord) = .ok (.rstep 63#6) ∧ s.inputs = []) :=
  ⟨⟨(at' .expand 16).withInputs [.tick], rfl, rfl⟩, ⟨at' .round 63, rfl, rfl⟩⟩

theorem witness_QuiescentSequencerTurnChangesNothing :
    ((at' .done 0).withInputs [.tick]).PHASE = .done ∧ ((at' .done 0).withInputs [.tick]).IDX = 0 ∧
      ((at' .done 0).withInputs [.tick]).inputs = .tick :: [] ∧ (at' .error 0).PHASE = .error ∧
      (at' .error 0).inputs = [] := by decide

theorem witness_ResetIsPossibleInEveryState :
    ((at' .round 40).withInputs [.reset, .tick]).inputs = .reset :: [.tick] := rfl

theorem witness_StepStopsOnlyOnUnreachableSeq :
    step (at' .expand 15) = .fault .unreachableSeq ∧ (at' .expand 15).inputs.head? ≠ some .reset :=
  ⟨rfl, by decide⟩

theorem witness_NopAnswersOkAndChangesNothing : (0x01#8 : BitVec 8) ≠ 0 := by decide

theorem witness_ClrEndsTheCallUnlessBusy :
    (at' .idle 0).PHASE = .idle ∧ (at' .done 0).PHASE = .done ∧ (at' .error 0).PHASE = .error ∧
      (at' .expand 16).PHASE = .expand ∧ (at' .round 63).PHASE = .round := by decide

theorem witness_PushkStoresAndCounts :
    (counts 63 0).PHASE = .idle ∧ (counts 64 0).PHASE = .idle ∧ (at' .error 0).PHASE ≠ .idle := by decide

theorem witness_PushdStoresAndCounts :
    (counts 0 31).PHASE = .idle ∧ (counts 0 32).PHASE = .idle ∧ (at' .expand 16).PHASE ≠ .idle := by decide

theorem witness_StartLoadsKeyAndBlock :
    (counts 64 32).PHASE = .idle ∧ (counts 64 32).KLEN = 64 ∧ (counts 64 32).DLEN = 32 := by decide

theorem witness_StartRaisesLengthError :
    ((counts 63 32).PHASE = .idle ∧ (counts 63 32).KLEN ≠ 64) ∧ ((counts 65 32).PHASE = .idle ∧ (counts 65 32).KLEN ≠ 64) ∧
      ((counts 64 31).PHASE = .idle ∧ (counts 64 31).KLEN = 64 ∧ (counts 64 31).DLEN ≠ 32) ∧
      ((counts 64 33).PHASE = .idle ∧ (counts 64 33).KLEN = 64 ∧ (counts 64 33).DLEN ≠ 32) ∧
      (at' .done 0).PHASE ≠ .idle ∧
      (State.reset.raise .invalidKeyLength).PHASE = .error ∧
      (State.reset.raise .invalidKeyLength).ERR = some .invalidKeyLength ∧
      (State.reset.raise .invalidDataLength).ERR = some .invalidDataLength := by decide

theorem witness_RdoutReadsCiphertextByteOnlyWhenDone :
    (at' .done 0).PHASE = .done ∧ 31 < 32 ∧ (at' .round 63).PHASE ≠ .done := by decide

theorem witness_IllegalWordChangesNothing :
    ∃ s : State, s.inputs = .cmd 0x0001#16 :: [] ∧ illegalWord 0x0001#16 = true ∧
      decode (.seq s.seqWord) ≠ .error .unreachable :=
  ⟨(at' .round 0).withInputs [.cmd 0x0001#16], rfl, by decide, fun h => by cases h⟩

theorem witness_RefusedCommandsChangeNothing :
    (at' .expand 16).PHASE = .expand ∧ (at' .done 0).PHASE ≠ .idle ∧ (at' .idle 0).PHASE ≠ .done := by decide

theorem witness_XstepDerivesOneScheduleWord :
    ((at' .expand 16).PHASE = .expand ∧ (at' .expand 16).IDX = BitVec.ofNat 6 16) ∧
      ((at' .expand 63).PHASE = .expand ∧ (at' .expand 63).IDX = BitVec.ofNat 6 63) := by decide

theorem witness_RstepAppliesOneRound :
    ((at' .round 0).PHASE = .round ∧ (at' .round 0).IDX = BitVec.ofNat 6 0) ∧
      ((at' .round 63).PHASE = .round ∧ (at' .round 63).IDX = BitVec.ofNat 6 63) := by decide

theorem zeros_schedule : IsSchedule (Vector.replicate 16 0) (Vector.replicate 64 0) where
  key := by simp
  derived := by
    intro i _ h
    simp
    decide

theorem witness_ExpandwIsTheUniqueSchedule :
    ∃ (k : Vector Word 16) (w : Vector Word 64), IsSchedule k w := ⟨_, _, zeros_schedule⟩

theorem witness_StaleScheduleWordsAreOverwritten :
    ∀ (i : Nat) (h : i < 16), ((Vector.replicate 64 0xDEADBEEF : Vector Word 64))[i] =
      ((Vector.replicate 16 0xDEADBEEF : Vector Word 16))[i] := by
  simp

theorem witness_RoundIsInjectiveInStateAndInScheduleWord :
    ∃ (st st' : Vector Word 8) (w w' k : Word), roundFn st w k = roundFn st' w' k ∧ st[0] = 0xC28A2F98 :=
  ⟨#v[0xC28A2F98, 0, 0, 0, 0, 0, 0, 0], #v[0xC28A2F98, 0, 0, 0, 0, 0, 0, 0], 5, 5, 7, rfl, rfl⟩

theorem witness_EncryptionIsInjectiveInTheBlock :
    ∃ (kt : Vector Word 64) (k : Vector Word 16) (p p' : Vector Word 8), encryptW kt k p = encryptW kt k p' :=
  ⟨roundConstants, Vector.replicate 16 0, Vector.replicate 8 0, Vector.replicate 8 0, rfl⟩

theorem witness_NothingWritesTheRoundConstants :
    (∃ t, exec .start (counts 64 32) = .next t) ∧ (∃ t, step ((at' .round 3).withInputs [.reset]) = .next t) :=
  ⟨⟨_, rfl⟩, ⟨_, rfl⟩⟩

theorem witness_ScheduleIsReadOnlyOnceComplete :
    (∃ t, step ((at' .round 63).withInputs [.tick]) = .next t) ∧
      (∃ t, step ((at' .done 0).withInputs [.cmd 0x1000#16]) = .next t) := ⟨⟨_, rfl⟩, ⟨_, rfl⟩⟩

theorem witness_KeyAndBlockAreFixedOutsideIdle :
    (∃ t, step ((at' .done 0).withInputs [.cmd 0x2055#16]) = .next t) ∧
    nextIs (step ((counts 63 0).withInputs [.cmd 0x2055#16])) (fun t => t.KB != State.reset.KB && t.KLEN != 63) = true ∧
    nextIs (step ((counts 0 31).withInputs [.cmd 0x3055#16])) (fun t => t.DB != State.reset.DB && t.DLEN != 31) = true ∧
    nextIs (step ((counts 64 32).withInputs [.cmd 0x1000#16])) (fun t => t.KLEN != 64 && t.DLEN != 32) = true :=
  ⟨⟨_, rfl⟩, by decide⟩

theorem witness_StateRegistersWrittenOnlyByLoadAndRound :
    nextIs (step ({ counts 64 32 with DB := State.reset.DB.set 0 1 }.withInputs [.cmd 0x4000#16]))
      (fun t => t.S != State.reset.S) = true ∧
    nextIs (step (at' .round 0)) (fun t => t.S != State.reset.S) = true := by decide

theorem witness_BusyPhasesEndOnlyByCompletionOrReset :
    nextIs (step (at' .expand 63)) (fun t => t.PHASE != .expand) = true ∧
      nextIs (step ((at' .round 63).withInputs [.tick])) (fun t => t.PHASE != .round) = true := by decide

theorem witness_CallEndsAreStableUntilClrOrReset :
    nextIs (step ((at' .error 0).withInputs [.cmd 0x1000#16])) (fun t => t.PHASE == .idle) = true ∧
      nextIs (step ((at' .done 0).withInputs [.reset])) (fun t => t.PHASE == .idle) = true ∧
      nextIs (step ((at' .done 0).withInputs [.cmd 0x4000#16])) (fun t => t.PHASE == .done) = true := by decide

theorem witness_EveryCommandGetsExactlyOneResponse :
    (∃ t, step ((at' .expand 16).withInputs [.cmd 0xF000#16]) = .next t) ∧
      (∃ t, step (at' .expand 16) = .next t) := ⟨⟨_, rfl⟩, ⟨_, rfl⟩⟩

theorem witness_StepTakesOneEvent :
    ∃ t, step ((at' .done 0).withInputs [.cmd 0x6000#16, .tick]) = .next t := ⟨_, rfl⟩

/-- A state of IDLE with one key byte pushed meets the invariants. -/
theorem one_byte_inv : (State.reset.pushKey 0x80).Inv where
  rom := rfl
  err := by decide
  idxExpand := fun h => by cases h
  idxQuiet := fun _ => rfl
  lengths := by
    rintro (h | h) <;> cases h
  expand := fun h => by cases h
  round := fun h => by cases h
  done := fun h => by cases h
  bounds := by decide

theorem witness_EveryStepKeepsInvariants :
    (State.reset.pushKey 0x80).Inv ∧ ∃ t, step (State.reset.pushKey 0x80) = .next t := ⟨one_byte_inv, _, rfl⟩

theorem witness_InvariantStatesAlwaysStep : ∃ s : State, s.Inv := ⟨_, one_byte_inv⟩

/-- 111 turns of the sequencer with an RDST among them. -/
def busyEvents : List Event := List.replicate 50 .tick ++ .cmd 0x5000#16 :: List.replicate 61 .tick

theorem busy_no_reset : .reset ∉ busyEvents := by simp [busyEvents]

theorem busy_count : busyEvents.count .tick = 111 := by
  simp [busyEvents]

theorem witness_EveryInterleavingReachesTheSameResult :
    ((at' .expand 16).withInputs (busyEvents ++ .tick :: [])).PHASE = .expand ∧
      ((at' .expand 16).withInputs (busyEvents ++ .tick :: [])).IDX = 16 ∧
      ((at' .expand 16).withInputs (busyEvents ++ .tick :: [])).inputs = busyEvents ++ .tick :: [] ∧
      .reset ∉ busyEvents ∧ busyEvents.count .tick = 111 :=
  ⟨rfl, rfl, rfl, busy_no_reset, busy_count⟩

theorem witness_AcceptedCallComputesTheCiphertext :
    ((counts 64 32).withInputs (.cmd 0x4000#16 :: (busyEvents ++ [.tick]))).PHASE = .idle ∧
      (counts 64 32).IDX = 0 ∧ (counts 64 32).KLEN = 64 ∧ (counts 64 32).DLEN = 32 ∧
      ((counts 64 32).withInputs (.cmd 0x4000#16 :: (busyEvents ++ [.tick]))).inputs =
        .cmd 0x4000#16 :: (busyEvents ++ [.tick]) ∧
      .reset ∉ busyEvents ∧ busyEvents.count .tick = 111 :=
  ⟨rfl, rfl, rfl, rfl, rfl, busy_no_reset, busy_count⟩

/-- A WAIT of 112 turns of the sequencer between two RDST. -/
def waitEvents : List Event := .cmd 0x5000#16 :: List.replicate 112 .tick ++ [.cmd 0x5000#16]

/-- The hypotheses of the call contract, for a key of this many bytes, a block of this many, and this WAIT. -/
def CallHypotheses (m n : Nat) (w : List Event) : Prop :=
  ∃ (s : State) (key data : List Byte) (wait : List Event), key.length = m ∧ data.length = n ∧ wait = w ∧
    (s.PHASE = .idle ∨ s.PHASE = .done ∨ s.PHASE = .error) ∧ s.IDX = 0 ∧
    (∀ e ∈ wait, isWaitEvent e = true) ∧ (key.length = 64 → data.length = 32 → 112 ≤ wait.count .tick) ∧
    s.inputs = encryptCall key data wait

theorem call_hypotheses (m n : Nat) (w : List Event) (hw : ∀ e ∈ w, isWaitEvent e = true)
    (hc : m = 64 → n = 32 → 112 ≤ w.count .tick) : CallHypotheses m n w :=
  ⟨(at' .error 0).withInputs (encryptCall (List.replicate m 0x80) (List.replicate n 0x01) w),
    List.replicate m 0x80, List.replicate n 0x01, w, by simp, by simp, rfl, .inr (.inr rfl), rfl, hw, by simpa using hc,
    rfl⟩

theorem witness_CallIsTheSourceFunction :
    CallHypotheses 63 31 [.cmd 0x5000#16] ∧ CallHypotheses 65 32 [] ∧ CallHypotheses 64 31 [.cmd 0x5000#16] ∧
    CallHypotheses 64 33 [] ∧ CallHypotheses 64 32 waitEvents ∧
    (∃ (k : Vector Byte 64) (d : Vector Byte 32), List.replicate 64 0x80 = k.toList ∧ List.replicate 32 0x01 = d.toList) :=
  ⟨call_hypotheses _ _ _ (by decide) (by decide), call_hypotheses _ _ _ (by decide) (by decide),
    call_hypotheses _ _ _ (by decide) (by decide), call_hypotheses _ _ _ (by decide) (by decide),
    call_hypotheses _ _ _ (by simp [waitEvents, isWaitEvent]) (fun _ _ => by simp [waitEvents]),
    ⟨Vector.replicate 64 0x80, Vector.replicate 32 0x01, rfl, rfl⟩⟩

/-- Two states in IDLE after one key byte, with different contents everywhere else. -/
theorem stale_same_live :
    SameLive { counts 1 0 with S := Vector.replicate 8 1, W := Vector.replicate 64 1, DB := Vector.replicate 32 1,
                               KB := State.reset.KB.set 1 0xFF } (counts 1 0) where
  K := rfl
  KLEN := rfl
  DLEN := rfl
  PHASE := rfl
  IDX := rfl
  ERR := rfl
  inputs := rfl
  rsps := rfl
  key := by
    intro _ j h hj
    have hj0 : j = 0 := Nat.lt_one_iff.mp hj
    subst hj0
    rfl
  data := fun _ j _ hj => absurd hj (Nat.not_lt_zero j)
  expand := fun h => by cases h
  round := fun h => by cases h
  done := fun h => by cases h

theorem witness_UnwrittenCellsAreNeverRead : ∃ s s' t : State, SameLive s s' ∧ step s = .next t :=
  ⟨_, _, _, stale_same_live, rfl⟩

theorem witness_EarlierCallsAreUnobservable :
    ∃ (s u v t : State), s.PHASE = .done ∧ exec .clr s = .next u ∧
      v = { u with S := Vector.replicate 8 1, W := Vector.replicate 64 2, KB := Vector.replicate 64 3,
                   DB := Vector.replicate 32 4 } ∧ Runs 1 u t :=
  ⟨(at' .done 0).withInputs [.cmd 0x1000#16, .cmd 0x4000#16], _, _, _, rfl, rfl, rfl, rfl⟩

end Sys2Proof.Tests
end

/-! PROOFS. What one step takes: its event, and the operation it runs (O45, O6, O7, O9). -/

namespace Sys2Proof.Machine

/-! ### The list of events -/

@[simp] theorem State.advance_inputs (s : State) : s.advance.inputs = s.inputs := by
  obtain ⟨p, i, hadv⟩ := s.advance_frame
  rw [hadv, State.setSeq_inputs]

@[simp] theorem State.startCall_inputs (s : State) : s.startCall.inputs = s.inputs := by
  rcases s.startCall_cases with ⟨_, hcall⟩ | ⟨_, _, hcall⟩ | ⟨_, _, hcall⟩ <;> simp [hcall]

/-- A host command, legal or not, takes and adds no event. -/
theorem exec_decodeCmd_inputs {c : CmdWord} {s t : State} (h : exec (decodeCmd c) s = .next t) :
    t.inputs = s.inputs := by
  obtain ⟨u, hu, hcases⟩ := exec_decodeCmd_cases c s
  obtain rfl : u = t := Host.Outcome.next.inj (hu.symm.trans h)
  rcases hcases with ⟨d, rfl⟩ | rfl | rfl | ⟨_, _, rfl⟩ | ⟨_, _, rfl⟩ | ⟨_, _, rfl⟩ | ⟨_, _, rfl⟩ <;> simp

/-- Settles O45, by the cases of a step that completes: a reset, a host command, or a turn of the sequencer in EXPAND,
in ROUND, or without a micro-operation. -/
theorem stepTakesOneEvent : Obligations.StepTakesOneEvent := by
  intro s t h
  rcases step_cases h with ⟨es, hin, rfl⟩ | ⟨c, es, hin, -, hexec⟩ | ⟨-, hturn⟩
  · simp [hin]
  · simp [hin, exec_decodeCmd_inputs hexec]
  · rcases hturn with ⟨-, -, rfl⟩ | ⟨-, rfl⟩ | ⟨-, -, rfl⟩ <;> simp

/-! ### The operation a step runs -/

/-- `seqReachable` says exactly that the decoder does not call `SEQ` unreachable (R78). -/
theorem State.seqReachable_iff (s : State) :
    s.seqReachable = true ↔ decode (.seq s.seqWord) ≠ .error .unreachable := by
  unfold State.seqReachable
  cases decode (.seq s.seqWord) with
  | ok i => simp
  | error e => cases e <;> simp

/-- Where `SEQ` selects an operation, the sequencer's turn is to run it (R160). -/
theorem State.sequencerTurn_of_decode {s : State} {i : Instr} (h : decode (.seq s.seqWord) = .ok i) :
    s.sequencerTurn = .run i s := by
  simp [State.sequencerTurn, h]

/-- Settles O6: `step_cmd` at the operation the command word decodes to. -/
theorem stepRunsTheHostCommand : Obligations.StepRunsTheHostCommand := by
  intro s c es i hin hseq hcmd
  obtain rfl : decodeCmd c = i := Except.ok.inj hcmd
  exact step_cmd s c es hin (s.seqReachable_iff.mpr hseq)

/-- Where `SEQ` selects an operation and the sequencer has the turn, the step runs it with the tick, if any, taken. -/
theorem step_of_selected {s : State} {i : Instr} (hsel : decode (.seq s.seqWord) = .ok i)
    (hturn : s.inputs = [] ∨ ∃ es, s.inputs = .tick :: es) : step s = exec i (s.withInputs s.inputs.tail) := by
  have hsel' : decode (.seq (s.withInputs s.inputs.tail).seqWord) = .ok i := hsel
  rw [step_turn s hturn, State.sequencerTurn_of_decode hsel', Action.perform_run]

/-- Settles O7: both clauses are `step_of_selected`; with no event waiting, taking the tail leaves the state as it is. -/
theorem stepRunsTheSelectedMicroOperation : Obligations.StepRunsTheSelectedMicroOperation := by
  intro s es i hsel
  constructor
  · intro hin
    have hstep := step_of_selected hsel (.inr ⟨es, hin⟩)
    rwa [hin] at hstep
  · intro hin
    have hsame : s.withInputs s.inputs.tail = s := by
      rw [hin, List.tail_nil, ← hin]
      rfl
    have hstep := step_of_selected hsel (.inl hin)
    rwa [hsame] at hstep

/-! ### Reset -/

/-- A reset at the head of the inputs is taken whatever the rest of the state holds (R210). -/
theorem step_reset (s : State) (es : List Event) (h : s.inputs = .reset :: es) :
    step s = .next (s.withInputs es).resetCore := by
  simp [step, State.nextAction, h]

/-- Settles O9: the next state is `resetCore`, whose control fields are those of `State.reset`. -/
theorem resetIsPossibleInEveryState : Obligations.ResetIsPossibleInEveryState := by
  intro s es hin
  exact ⟨_, step_reset s es hin, rfl, rfl, rfl, rfl, rfl, rfl, rfl, rfl⟩

end Sys2Proof.Machine

/-! PROOFS. What a step that completes has done to the state, said once as an inductive relation, and the statements that
follow from it by one case per effect (O38, O40, O41). -/

namespace Sys2Proof.Machine

/-! ### The effect of one step -/

/-- A word whose high byte is `hi` is `hi` followed by its operand byte (R70, R75). -/
theorem eq_append_imm8 {c : CmdWord} {hi : Byte} (h : c &&& 0xFF00#16 = hi ++ 0x00#8) : c = hi ++ imm8 c := by
  ext j hj
  have hbit : (c &&& (0xFF#8 ++ 0x00#8))[j] = (hi ++ 0x00#8)[j] := congrArg (·[j]) h
  rw [BitVec.getElem_and, BitVec.getElem_append, BitVec.getElem_append] at hbit
  rw [BitVec.getElem_append]
  split
  · simp [imm8, BitVec.getLsbD_eq_getElem hj]
  · next hlow =>
    have hone : (0xFF#8)[j - 8] = true := BitVec.getElem_allOnes (j - 8) (by omega : j - 8 < 8)
    simpa [hlow, hone] using hbit

/-- What a step can do to `u`, the state without the event `e` the step takes (`none`: no event waits): one constructor
for each effect, with the event and the phase it needs (R82, R155, R160, R161, R210). -/
inductive StepEffect (e : Option Event) (u : State) : State → Prop
  | reset (he : e = some .reset) : StepEffect e u u.resetCore
  | answer (c : CmdWord) (code : RspCode) (d : Byte) (he : e = some (.cmd c)) : StepEffect e u (u.respond code d)
  | clr (he : e = some (.cmd 0x1000#16)) (hacc : accepts .clr u.PHASE = true) : StepEffect e u u.endCall
  | pushKey (b : Byte) (he : e = some (.cmd (0x20#8 ++ b))) (hp : u.PHASE = .idle) : StepEffect e u (u.pushKey b)
  | pushData (b : Byte) (he : e = some (.cmd (0x30#8 ++ b))) (hp : u.PHASE = .idle) : StepEffect e u (u.pushData b)
  | raise (err : LengthError) (he : e = some (.cmd 0x4000#16)) (hp : u.PHASE = .idle)
      (hlen : ¬(u.KLEN = 64 ∧ u.DLEN = 32)) : StepEffect e u (u.raise err)
  | load (he : e = some (.cmd 0x4000#16)) (hp : u.PHASE = .idle) (hk : u.KLEN = 64) (hd : u.DLEN = 32) :
      StepEffect e u ((u.loadKey.loadData.setSeq .expand 16).respond .ok 0)
  | derive (he : e = none ∨ e = some .tick) (hp : u.PHASE = .expand) (h16 : 16 ≤ u.IDX.toNat) (h63 : u.IDX ≠ 63) :
      StepEffect e u ((u.deriveWord u.IDX).setSeq .expand (u.IDX + 1))
  | deriveLast (he : e = none ∨ e = some .tick) (hp : u.PHASE = .expand) (h63 : u.IDX = 63) :
      StepEffect e u ((u.deriveWord u.IDX).setSeq .round 0)
  | round (he : e = none ∨ e = some .tick) (hp : u.PHASE = .round) (h63 : u.IDX ≠ 63) :
      StepEffect e u ((u.applyRound u.IDX).setSeq .round (u.IDX + 1))
  | roundLast (he : e = none ∨ e = some .tick) (hp : u.PHASE = .round) (h63 : u.IDX = 63) :
      StepEffect e u ((u.applyRound u.IDX).setSeq .done 0)
  | quiet (he : e = none ∨ e = some .tick) (hb : u.busy = false) (hi : u.IDX = 0) : StepEffect e u u

/-- START's three outcomes as effects. -/
theorem StepEffect.of_startCall {e : Option Event} {u : State} (he : e = some (.cmd 0x4000#16))
    (hp : u.PHASE = .idle) : StepEffect e u u.startCall := by
  rcases u.startCall_cases with ⟨hk, hcall⟩ | ⟨-, hd, hcall⟩ | ⟨hk, hd, hcall⟩ <;> rw [hcall]
  · exact .raise _ he hp fun hlen => hk hlen.1
  · exact .raise _ he hp fun hlen => hd hlen.2
  · exact .load he hp hk hd

/-- A host command, legal or not, accepted or not, has one of the effects. -/
theorem StepEffect.of_command {c : CmdWord} {u t : State} (h : exec (decodeCmd c) u = .next t) :
    StepEffect (some (.cmd c)) u t := by
  obtain ⟨v, hv, hcases⟩ := exec_decodeCmd_cases c u
  obtain rfl : v = t := Host.Outcome.next.inj (hv.symm.trans h)
  rcases hcases with ⟨d, rfl⟩ | rfl | rfl | ⟨rfl, hacc, rfl⟩ | ⟨hc, hp, rfl⟩ | ⟨hc, hp, rfl⟩ | ⟨rfl, hp, rfl⟩
  · exact .answer c _ _ rfl
  · exact .answer c _ _ rfl
  · exact .answer c _ _ rfl
  · exact .clr rfl hacc
  · exact .pushKey _ (congrArg (some <| Event.cmd ·) (eq_append_imm8 hc)) hp
  · exact .pushData _ (congrArg (some <| Event.cmd ·) (eq_append_imm8 hc)) hp
  · exact .of_startCall rfl hp

/-- A turn of the sequencer in EXPAND, advanced by R161. -/
theorem StepEffect.of_derive {e : Option Event} {u : State} (he : e = none ∨ e = some .tick)
    (hp : u.PHASE = .expand) (h16 : 16 ≤ u.IDX.toNat) : StepEffect e u (u.deriveWord u.IDX).advance := by
  by_cases h63 : u.IDX = 63
  · rw [State.advance_expand_last (u.deriveWord u.IDX) hp h63]
    exact .deriveLast he hp h63
  · rw [State.advance_expand_next (u.deriveWord u.IDX) hp h63]
    exact .derive he hp h16 h63

/-- A turn of the sequencer in ROUND, advanced by R161. -/
theorem StepEffect.of_round {e : Option Event} {u : State} (he : e = none ∨ e = some .tick)
    (hp : u.PHASE = .round) : StepEffect e u (u.applyRound u.IDX).advance := by
  by_cases h63 : u.IDX = 63
  · rw [State.advance_round_last (u.applyRound u.IDX) hp h63]
    exact .roundLast he hp h63
  · rw [State.advance_round_next (u.applyRound u.IDX) hp h63]
    exact .round he hp h63

/-- Every step that completes has one of the effects, on the state without the event it takes. -/
theorem step_effect {s t : State} (h : step s = .next t) :
    StepEffect s.inputs.head? (s.withInputs s.inputs.tail) t := by
  rcases step_cases h with ⟨es, hin, rfl⟩ | ⟨c, es, hin, -, hexec⟩ | ⟨hin, hturn⟩
  · rw [hin]
    exact .reset rfl
  · rw [hin]
    exact .of_command hexec
  · have he : s.inputs.head? = none ∨ s.inputs.head? = some .tick := by
      rcases hin with hin | ⟨es, hin⟩ <;> simp [hin]
    rcases hturn with ⟨hp, h16, rfl⟩ | ⟨hp, rfl⟩ | ⟨hb, hi, rfl⟩
    · exact .of_derive (u := s.withInputs s.inputs.tail) he hp h16
    · exact .of_round (u := s.withInputs s.inputs.tail) he hp
    · exact .quiet he hb hi

/-! ### The round constants (R24) -/

/-- A command keeps `K` if its action does. -/
theorem State.command_K {s : State} {act : State → State} (hact : (act s).K = s.K) (c : Command) :
    (s.command c act).K = s.K := by
  rcases s.command_cases c act with ⟨-, hcmd⟩ | ⟨-, hcmd⟩ <;> simp [hcmd, hact]

@[simp] theorem State.startCall_K (s : State) : s.startCall.K = s.K := by
  rcases s.startCall_cases with ⟨-, hcall⟩ | ⟨-, -, hcall⟩ | ⟨-, -, hcall⟩ <;> simp [hcall]

@[simp] theorem State.advance_K (s : State) : s.advance.K = s.K := by
  obtain ⟨p, i, hadv⟩ := s.advance_frame
  rw [hadv, State.setSeq_K]

theorem K_of_next {s t u : State} (hu : u.K = s.K) (h : (.next u : Result) = .next t) : t.K = s.K :=
  Host.Outcome.next.inj h ▸ hu

/-- An operation that completes keeps `K`: a command by its action, a micro-operation by its advance, and a library
function because it writes `fnOut` alone. -/
theorem exec_K {i : Instr} {s t : State} (h : exec i s = .next t) : t.K = s.K := by
  cases i with
  | nop => exact K_of_next (State.command_K (State.respond_K s _ _) .nop) h
  | clr => exact K_of_next (State.command_K s.endCall_K .clr) h
  | pushk b => exact K_of_next (State.command_K (s.pushKey_K b) .pushk) h
  | pushd b => exact K_of_next (State.command_K (s.pushData_K b) .pushd) h
  | start => exact K_of_next (State.command_K s.startCall_K .start) h
  | rdst => exact K_of_next (State.command_K (s.respond_K _ _) .rdst) h
  | rdout j => exact K_of_next (State.command_K (s.respond_K _ _) .rdout) h
  | illegal c => exact K_of_next (s.respond_K _ _) h
  | xstep i =>
    simp only [exec, execXstep] at h
    split at h
    · exact K_of_next (s.deriveWord i).advance_K h
    · cases h
  | rstep i =>
    simp only [exec, execRstep] at h
    split at h
    · exact K_of_next (s.applyRound i).advance_K h
    · cases h
  | kload => exact K_of_next s.loadKey_K h
  | sload => exact K_of_next s.loadData_K h
  | add32 | rotr | shr | sigma0s | sigma1s | sigma0b | sigma1b | ch | maj | rev32 | be32 | le32 | bebytes | lebytes =>
    exact K_of_next (s.setFnOut_K _) h

theorem StepEffect.K {e : Option Event} {u t : State} (h : StepEffect e u t) : t.K = u.K := by
  cases h <;> simp

/-- Settles O38: `exec_K` for the operations, `StepEffect.K` for the steps. -/
theorem nothingWritesTheRoundConstants : Obligations.NothingWritesTheRoundConstants :=
  ⟨fun _ _ _ h => exec_K h, fun _ _ h => (step_effect h).K⟩

/-! ### The buffers, their counters and the state registers (R22, R25 to R28) -/

/-- `KB` changes only by a PUSHK that finds room, at the index its counter gives. -/
theorem StepEffect.KB_change {e : Option Event} {u t : State} (h : StepEffect e u t) (he : e ≠ some .reset)
    (hne : t.KB ≠ u.KB) :
    u.PHASE = .idle ∧ ∃ (b : Byte) (hk : u.KLEN < 64),
      e = some (.cmd (0x20#8 ++ b)) ∧ t.KB = u.KB.set u.KLEN b hk := by
  cases h with
  | reset hreset => exact absurd hreset he
  | pushKey b hcmd hp =>
    by_cases hk : u.KLEN < 64
    · exact ⟨hp, b, hk, hcmd, by simp [hk]⟩
    · simp [hk] at hne
  | _ => simp at hne

/-- `DB` changes only by a PUSHD that finds room, at the index its counter gives. -/
theorem StepEffect.DB_change {e : Option Event} {u t : State} (h : StepEffect e u t) (he : e ≠ some .reset)
    (hne : t.DB ≠ u.DB) :
    u.PHASE = .idle ∧ ∃ (b : Byte) (hd : u.DLEN < 32),
      e = some (.cmd (0x30#8 ++ b)) ∧ t.DB = u.DB.set u.DLEN b hd := by
  cases h with
  | reset hreset => exact absurd hreset he
  | pushData b hcmd hp =>
    by_cases hd : u.DLEN < 32
    · exact ⟨hp, b, hd, hcmd, by simp [hd]⟩
    · simp [hd] at hne
  | _ => simp at hne

theorem StepEffect.KLEN_change {e : Option Event} {u t : State} (h : StepEffect e u t) (he : e ≠ some .reset)
    (hne : t.KLEN ≠ u.KLEN) :
    e = some (.cmd 0x1000#16) ∨ (u.PHASE = .idle ∧ ∃ b : Byte, e = some (.cmd (0x20#8 ++ b))) := by
  cases h with
  | reset hreset => exact absurd hreset he
  | clr hcmd _ => exact .inl hcmd
  | pushKey b hcmd hp => exact .inr ⟨hp, b, hcmd⟩
  | _ => simp at hne

theorem StepEffect.DLEN_change {e : Option Event} {u t : State} (h : StepEffect e u t) (he : e ≠ some .reset)
    (hne : t.DLEN ≠ u.DLEN) :
    e = some (.cmd 0x1000#16) ∨ (u.PHASE = .idle ∧ ∃ b : Byte, e = some (.cmd (0x30#8 ++ b))) := by
  cases h with
  | reset hreset => exact absurd hreset he
  | clr hcmd _ => exact .inl hcmd
  | pushData b hcmd hp => exact .inr ⟨hp, b, hcmd⟩
  | _ => simp at hne

/-- `S` changes only by the load of START and by a round. -/
theorem StepEffect.S_change {e : Option Event} {u t : State} (h : StepEffect e u t) (he : e ≠ some .reset)
    (hne : t.S ≠ u.S) :
    (u.PHASE = .idle ∧ e = some (.cmd 0x4000#16) ∧ u.KLEN = 64 ∧ u.DLEN = 32) ∨
    (u.PHASE = .round ∧ (e = none ∨ e = some .tick)) := by
  cases h with
  | reset hreset => exact absurd hreset he
  | load hcmd hp hk hd => exact .inl ⟨hp, hcmd, hk, hd⟩
  | round hturn hp _ => exact .inr ⟨hp, hturn⟩
  | roundLast hturn hp _ => exact .inr ⟨hp, hturn⟩
  | _ => simp at hne

/-- Settles O40: each change names its phase and its event; outside IDLE that leaves CLR and reset. -/
theorem keyAndBlockAreFixedOutsideIdle : Obligations.KeyAndBlockAreFixedOutsideIdle := by
  refine ⟨fun s t hp he h => ?_, fun s t he h => ?_⟩
  · have heff := step_effect h
    refine ⟨?_, ?_, fun hclr => ⟨?_, ?_⟩⟩ <;> by_contra hne
    · exact hp (heff.KB_change he hne).1
    · exact hp (heff.DB_change he hne).1
    · exact (heff.KLEN_change he hne).elim hclr fun hpush => hp hpush.1
    · exact (heff.DLEN_change he hne).elim hclr fun hpush => hp hpush.1
  · have heff := step_effect h
    exact ⟨heff.KB_change he, heff.DB_change he, heff.KLEN_change he, heff.DLEN_change he⟩

/-- Settles O41: `StepEffect.S_change`, where no event waiting means that the list is empty. -/
theorem stateRegistersWrittenOnlyByLoadAndRound : Obligations.StateRegistersWrittenOnlyByLoadAndRound := by
  intro s t he h hne
  rcases (step_effect h).S_change he hne with hload | ⟨hp, hturn⟩
  · exact .inl hload
  · exact .inr ⟨hp, hturn.imp_left List.head?_eq_none_iff.mp⟩

end Sys2Proof.Machine

/-! PROOFS. The invariants of R41 hold at reset and every step keeps them (O46, O47). -/

namespace Sys2Proof.Machine

/-! ### The schedule as the expander builds it (R112, R113) -/

/-- A derivation writes one entry, so entries below `16 + m` are final after `m` derivations. -/
theorem expandFrom_getElem_of_le (w : Vector Word 64) {m n j : Nat} (hmn : m ≤ n) (hj : j < 64) (hjm : j < 16 + m) :
    (expandFrom w n)[j] = (expandFrom w m)[j] := by
  induction n, hmn using Nat.le_induction with
  | base => rfl
  | succ n hmn ih =>
    by_cases hn : 16 + n < 64
    · rw [expandFrom_succ w n hn, Vector.getElem_set_ne _ hj (by omega), ih]
    · rw [← ih]
      simp [expandFrom, hn]

theorem expandW_getElem_of_lt (k : Vector Word 16) {j : Nat} (hj : j < 16) : (expandW k)[j] = k[j] := by
  rw [expandW, expandFrom_getElem_of_le _ (Nat.zero_le 48) (by omega) (by omega)]
  simp [expandFrom, hj]

/-- Entries 16 to 63 of `EXPANDW` satisfy the recurrence (R113). -/
theorem expandW_getElem_of_ge (k : Vector Word 16) {j : Nat} (h16 : 16 ≤ j) (hj : j < 64) :
    (expandW k)[j] = scheduleWord (expandW k) j hj := by
  obtain ⟨n, rfl⟩ := Nat.exists_eq_add_of_le h16
  calc (expandW k)[16 + n]
      = (expandFrom (keyPadded k) (n + 1))[16 + n] := expandFrom_getElem_of_le _ (by omega) hj (by omega)
    _ = scheduleWord (expandFrom (keyPadded k) n) (16 + n) hj := by simp [expandFrom_succ _ n hj]
    _ = scheduleWord (expandW k) (16 + n) hj :=
        scheduleWord_congr _ _ _ h16 hj fun i hi hin => (expandFrom_getElem_of_le _ (by omega) hi hin).symm

/-! ### The invariants, effect by effect -/

/-- In IDLE and ERROR the invariants constrain `K`, `ERR`, `IDX` and the counters only. -/
theorem State.inv_of_idle_or_error {s : State} (hp : s.PHASE = .idle ∨ s.PHASE = .error) (rom : s.K = roundConstants)
    (err : s.ERR ≠ none ↔ s.PHASE = .error) (idx : s.IDX = 0) (bounds : s.KLEN ≤ 65 ∧ s.DLEN ≤ 33) : s.Inv where
  rom := rom
  err := err
  idxExpand := by rcases hp with hp | hp <;> simp [hp]
  idxQuiet _ := idx
  lengths := by rcases hp with hp | hp <;> simp [hp, State.busy]
  expand := by rcases hp with hp | hp <;> simp [hp]
  round := by rcases hp with hp | hp <;> simp [hp]
  done := by rcases hp with hp | hp <;> simp [hp]
  bounds := bounds

namespace State.Inv

variable {s : State}

/-- No invariant speaks of the events to come or of the responses given. -/
theorem withLists (h : s.Inv) (es : List Event) (rs : List RspWord) : { s with inputs := es, rsps := rs }.Inv :=
  ⟨h.rom, h.err, h.idxExpand, h.idxQuiet, h.lengths, h.expand, h.round, h.done, h.bounds⟩

theorem withInputs (h : s.Inv) (es : List Event) : (s.withInputs es).Inv := h.withLists es s.rsps

theorem respond (h : s.Inv) (code : RspCode) (d : Byte) : (s.respond code d).Inv := h.withLists s.inputs _

/-- R41 item 2, read in a phase other than ERROR. -/
theorem err_eq_none (h : s.Inv) (hp : s.PHASE ≠ .error) : s.ERR = none :=
  not_not.mp fun herr => hp (h.err.mp herr)

theorem resetCore (h : s.Inv) : s.resetCore.Inv :=
  inv_of_idle_or_error (.inl rfl) h.rom (by simp [State.reset]) rfl (by simp [State.reset])

theorem endCall (h : s.Inv) : s.endCall.Inv :=
  inv_of_idle_or_error (.inl rfl) h.rom (by simp) rfl (by simp)

theorem raise (h : s.Inv) (e : LengthError) : (s.raise e).Inv :=
  inv_of_idle_or_error (.inr rfl) h.rom (by simp) rfl h.bounds

theorem idx_of_idle (h : s.Inv) (hp : s.PHASE = .idle) : s.IDX = 0 := h.idxQuiet (by simp [State.busy, hp])

theorem pushKey (h : s.Inv) (hp : s.PHASE = .idle) (b : Byte) : (s.pushKey b).Inv :=
  inv_of_idle_or_error (.inl hp) h.rom h.err (h.idx_of_idle hp) ⟨Nat.min_le_right _ _, h.bounds.2⟩

theorem pushData (h : s.Inv) (hp : s.PHASE = .idle) (b : Byte) : (s.pushData b).Inv :=
  inv_of_idle_or_error (.inl hp) h.rom h.err (h.idx_of_idle hp) ⟨h.bounds.1, Nat.min_le_right _ _⟩

/-- The load puts the key words, which are the first sixteen words of the schedule, below index 16. -/
theorem load (h : s.Inv) (hp : s.PHASE = .idle) (hk : s.KLEN = 64) (hd : s.DLEN = 32) :
    (s.loadKey.loadData.setSeq .expand 16).Inv where
  rom := by simp [h.rom]
  err := by simp [h.err_eq_none (by simp [hp])]
  idxExpand _ := by simp
  idxQuiet := by simp [State.busy]
  lengths _ := by simp [hk, hd]
  expand _ := by
    refine ⟨fun j hj hlt => ?_, by simp⟩
    have h16 : j < 16 := by simpa using hlt
    simp [keyLoaded_low, expandW_getElem_of_lt, h16]
  round := by simp
  done := by simp
  bounds := by simpa using h.bounds

/-- XSTEP derives the next word of the schedule from words that are right already. -/
theorem deriveWord_W (h : s.Inv) (hp : s.PHASE = .expand) {j : Nat} (hj : j < 64) (hle : j ≤ s.IDX.toNat) :
    (s.deriveWord s.IDX).W[j] = (expandW (keyWords s.KB))[j] := by
  obtain ⟨hW, -⟩ := h.expand hp
  rcases Nat.lt_or_eq_of_le hle with hlt | rfl
  · rw [State.deriveWord_W, Vector.getElem_set_ne _ hj (by omega), hW j hj hlt]
  · rw [State.deriveWord_W, Vector.getElem_set_self, expandW_getElem_of_ge _ (h.idxExpand hp) hj]
    exact scheduleWord_congr _ _ _ (h.idxExpand hp) hj hW

theorem derive (h : s.Inv) (hp : s.PHASE = .expand) (h63 : s.IDX ≠ 63) :
    ((s.deriveWord s.IDX).setSeq .expand (s.IDX + 1)).Inv where
  rom := h.rom
  err := by simp [h.err_eq_none (by simp [hp])]
  idxExpand _ := by
    have h16 := h.idxExpand hp
    rw [State.setSeq_IDX, idx_succ_toNat _ h63]
    omega
  idxQuiet := by simp [State.busy]
  lengths _ := h.lengths (.inl (by simp [State.busy, hp]))
  expand _ := by
    refine ⟨fun j hj hlt => h.deriveWord_W hp hj ?_, (h.expand hp).2⟩
    rw [State.setSeq_IDX, idx_succ_toNat _ h63] at hlt
    omega
  round := by simp
  done := by simp
  bounds := h.bounds

theorem deriveLast (h : s.Inv) (hp : s.PHASE = .expand) (h63 : s.IDX = 63) :
    ((s.deriveWord s.IDX).setSeq .round 0).Inv where
  rom := h.rom
  err := by simp [h.err_eq_none (by simp [hp])]
  idxExpand := by simp
  idxQuiet := by simp [State.busy]
  lengths _ := h.lengths (.inl (by simp [State.busy, hp]))
  expand := by simp
  round _ := by
    refine ⟨Vector.ext fun j hj => h.deriveWord_W hp hj ?_, (h.expand hp).2⟩
    have hlast : s.IDX.toNat = 63 := congrArg BitVec.toNat h63
    omega
  done := by simp
  bounds := h.bounds

/-- RSTEP makes the first `IDX` rounds the first `IDX + 1`. -/
theorem applyRound_S (h : s.Inv) (hp : s.PHASE = .round) :
    (s.applyRound s.IDX).S = roundsFrom s.K s.W (ptWords s.DB) (s.IDX.toNat + 1) := by
  obtain ⟨-, hS⟩ := h.round hp
  rw [roundsFrom_succ _ _ _ _ s.IDX.isLt, ← hS, State.applyRound_S]

theorem round_next (h : s.Inv) (hp : s.PHASE = .round) (h63 : s.IDX ≠ 63) :
    ((s.applyRound s.IDX).setSeq .round (s.IDX + 1)).Inv where
  rom := h.rom
  err := by simp [h.err_eq_none (by simp [hp])]
  idxExpand := by simp
  idxQuiet := by simp [State.busy]
  lengths _ := h.lengths (.inl (by simp [State.busy, hp]))
  expand := by simp
  round _ := by
    refine ⟨(h.round hp).1, (h.applyRound_S hp).trans ?_⟩
    rw [State.setSeq_IDX, idx_succ_toNat _ h63]
    rfl
  done := by simp
  bounds := h.bounds

theorem round_last (h : s.Inv) (hp : s.PHASE = .round) (h63 : s.IDX = 63) :
    ((s.applyRound s.IDX).setSeq .done 0).Inv where
  rom := h.rom
  err := by simp [h.err_eq_none (by simp [hp])]
  idxExpand := by simp
  idxQuiet _ := rfl
  lengths _ := h.lengths (.inl (by simp [State.busy, hp]))
  expand := by simp
  round := by simp
  done _ := by
    have hS := h.applyRound_S hp
    rw [h63, (h.round hp).1] at hS
    rw [h63]
    exact hS
  bounds := h.bounds

end State.Inv

/-! ### The two statements -/

/-- Settles O46: reset is IDLE, where the invariants speak of control values only. -/
theorem resetStateMeetsInvariants : Obligations.ResetStateMeetsInvariants :=
  ⟨State.inv_of_idle_or_error (.inl rfl) rfl (by decide) rfl (by decide), rfl, rfl, rfl, rfl, rfl, by decide⟩

theorem StepEffect.inv {e : Option Event} {u t : State} (h : StepEffect e u t) (hu : u.Inv) : t.Inv := by
  cases h with
  | reset _ => exact hu.resetCore
  | answer _ code d _ => exact hu.respond code d
  | clr _ _ => exact hu.endCall
  | pushKey b _ hp => exact hu.pushKey hp b
  | pushData b _ hp => exact hu.pushData hp b
  | raise err _ _ _ => exact hu.raise err
  | load _ hp hk hd => exact (hu.load hp hk hd).respond .ok 0
  | derive _ hp _ h63 => exact hu.derive hp h63
  | deriveLast _ hp h63 => exact hu.deriveLast hp h63
  | round _ hp h63 => exact hu.round_next hp h63
  | roundLast _ hp h63 => exact hu.round_last hp h63
  | quiet _ _ _ => exact hu

/-- Settles O47: every effect of a step keeps the invariants, and taking the event does not touch them. -/
theorem everyStepKeepsInvariants : Obligations.EveryStepKeepsInvariants :=
  fun _ _ hs h => (step_effect h).inv (hs.withInputs _)

end Sys2Proof.Machine

/-! PROOFS. Two states that agree on the cells R38 lets a rule read take the same steps (O52): a simulation, with one lemma
for each operation of a step. -/

namespace Sys2Proof.Machine

/-! ### Agreement, operation by operation -/

namespace SameLive

variable {s s' : State}

theorem status_eq (h : SameLive s s') : s.status = s'.status := by
  simp only [State.status, h.ERR, h.PHASE]

theorem seqWord_eq (h : SameLive s s') : s.seqWord = s'.seqWord := by
  simp only [State.seqWord, h.PHASE, h.IDX]

theorem withInputs (h : SameLive s s') (es : List Event) : SameLive (s.withInputs es) (s'.withInputs es) :=
  { h with inputs := rfl }

theorem respond (h : SameLive s s') (code : RspCode) (d : Byte) :
    SameLive (s.respond code d) (s'.respond code d) :=
  { h with rsps := congrArg (· ++ [rspWord code d]) h.rsps }

/-- After a reset nothing of the earlier arrays is left. -/
theorem resetCore (h : SameLive s s') : SameLive s.resetCore s'.resetCore where
  K := h.K
  KLEN := rfl
  DLEN := rfl
  PHASE := rfl
  IDX := rfl
  ERR := rfl
  inputs := h.inputs
  rsps := h.rsps
  key _ _ _ _ := rfl
  data _ _ _ _ := rfl
  expand _ := ⟨fun _ _ _ => rfl, rfl⟩
  round _ := ⟨fun _ _ _ => rfl, rfl⟩
  done _ := rfl

/-- CLR leaves counters of zero, below which no buffer cell is live. -/
theorem endCall (h : SameLive s s') : SameLive s.endCall s'.endCall where
  K := h.K
  KLEN := rfl
  DLEN := rfl
  PHASE := rfl
  IDX := rfl
  ERR := rfl
  inputs := h.inputs
  rsps := congrArg (· ++ [rspWord .ok 0]) h.rsps
  key := by simp
  data := by simp
  expand := by simp
  round := by simp
  done := by simp

/-- In ERROR no cell of the four arrays is live. -/
theorem raise (h : SameLive s s') (e : LengthError) : SameLive (s.raise e) (s'.raise e) where
  K := h.K
  KLEN := h.KLEN
  DLEN := h.DLEN
  PHASE := rfl
  IDX := rfl
  ERR := rfl
  inputs := h.inputs
  rsps := congrArg (· ++ [rspWord .lenerr (e.code.setWidth 8)]) h.rsps
  key := by simp
  data := by simp
  expand := by simp
  round := by simp
  done := by simp

/-- PUSHK writes the one key cell that becomes live. -/
theorem pushKey_KB (h : SameLive s s') (hp : s.PHASE = .idle) (b : Byte) {j : Nat} (hj : j < 64)
    (hlt : j < s.KLEN + 1) : (s.pushKey b).KB[j] = (s'.pushKey b).KB[j] := by
  simp only [State.pushKey_KB, ← h.KLEN]
  by_cases hk : s.KLEN < 64
  · simp only [hk, ↓reduceDIte, Vector.getElem_set]
    split
    · rfl
    · exact h.key hp j hj (by omega)
  · simp only [hk, ↓reduceDIte]
    exact h.key hp j hj (by omega)

theorem pushKey (h : SameLive s s') (hp : s.PHASE = .idle) (b : Byte) : SameLive (s.pushKey b) (s'.pushKey b) where
  K := h.K
  KLEN := by simp [h.KLEN]
  DLEN := h.DLEN
  PHASE := h.PHASE
  IDX := h.IDX
  ERR := h.ERR
  inputs := h.inputs
  rsps := congrArg (· ++ [rspWord .ok 0]) h.rsps
  key _ j hj hlt := h.pushKey_KB hp b hj (Nat.lt_of_lt_of_le hlt (Nat.min_le_left _ _))
  data := h.data
  expand := by simp [hp]
  round := by simp [hp]
  done := by simp [hp]

/-- PUSHD writes the one data cell that becomes live. -/
theorem pushData_DB (h : SameLive s s') (hp : s.PHASE = .idle) (b : Byte) {j : Nat} (hj : j < 32)
    (hlt : j < s.DLEN + 1) : (s.pushData b).DB[j] = (s'.pushData b).DB[j] := by
  simp only [State.pushData_DB, ← h.DLEN]
  by_cases hd : s.DLEN < 32
  · simp only [hd, ↓reduceDIte, Vector.getElem_set]
    split
    · rfl
    · exact h.data hp j hj (by omega)
  · simp only [hd, ↓reduceDIte]
    exact h.data hp j hj (by omega)

theorem pushData (h : SameLive s s') (hp : s.PHASE = .idle) (b : Byte) :
    SameLive (s.pushData b) (s'.pushData b) where
  K := h.K
  KLEN := h.KLEN
  DLEN := by simp [h.DLEN]
  PHASE := h.PHASE
  IDX := h.IDX
  ERR := h.ERR
  inputs := h.inputs
  rsps := congrArg (· ++ [rspWord .ok 0]) h.rsps
  key := h.key
  data _ j hj hlt := h.pushData_DB hp b hj (Nat.lt_of_lt_of_le hlt (Nat.min_le_left _ _))
  expand := by simp [hp]
  round := by simp [hp]
  done := by simp [hp]

/-- With good lengths every buffer cell is live, so the load gives both states the same words. -/
theorem load (h : SameLive s s') (hp : s.PHASE = .idle) (hk : s.KLEN = 64) (hd : s.DLEN = 32) :
    SameLive (s.loadKey.loadData.setSeq .expand 16) (s'.loadKey.loadData.setSeq .expand 16) where
  K := by simp [h.K]
  KLEN := by simp [h.KLEN]
  DLEN := by simp [h.DLEN]
  PHASE := rfl
  IDX := rfl
  ERR := by simp [h.ERR]
  inputs := by simp [h.inputs]
  rsps := by simp [h.rsps]
  key := by simp
  data := by simp
  expand _ := by
    have hKB : s.KB = s'.KB := Vector.ext fun j hj => h.key hp j hj (by omega)
    have hDB : s.DB = s'.DB := Vector.ext fun j hj => h.data hp j hj (by omega)
    refine ⟨fun j hj hlt => ?_, by simp [hDB]⟩
    have h16 : j < 16 := by simpa using hlt
    simp [keyLoaded_low, h16, hKB]
  round := by simp
  done := by simp

theorem startCall (h : SameLive s s') (hp : s.PHASE = .idle) : SameLive s.startCall s'.startCall := by
  unfold State.startCall
  rw [← h.KLEN, ← h.DLEN]
  split
  · exact h.raise _
  · split
    · exact h.raise _
    · exact (h.load hp (by omega) (by omega)).respond _ _

/-- XSTEP reads schedule words below `IDX` only, so the word it derives is the same in both states. -/
theorem deriveWord_W (h : SameLive s s') (hp : s.PHASE = .expand) (h16 : 16 ≤ s.IDX.toNat) {j : Nat} (hj : j < 64)
    (hle : j ≤ s.IDX.toNat) : (s.deriveWord s.IDX).W[j] = (s'.deriveWord s.IDX).W[j] := by
  obtain ⟨hW, -⟩ := h.expand hp
  simp only [State.deriveWord_W, Vector.getElem_set]
  split
  · exact scheduleWord_congr _ _ _ h16 _ hW
  · exact hW j hj (by omega)

theorem derive (h : SameLive s s') (hp : s.PHASE = .expand) (h16 : 16 ≤ s.IDX.toNat) :
    SameLive (s.deriveWord s.IDX).advance (s'.deriveWord s.IDX).advance := by
  by_cases h63 : s.IDX = 63
  · have hlast : s.IDX.toNat = 63 := congrArg BitVec.toNat h63
    rw [State.advance_expand_last (s.deriveWord s.IDX) hp h63,
      State.advance_expand_last (s'.deriveWord s.IDX) (h.PHASE ▸ hp) (h.IDX ▸ h63)]
    exact { h with
      PHASE := rfl
      IDX := rfl
      key := by simp
      data := by simp
      expand := by simp
      round := fun _ => ⟨fun j hj _ => h.deriveWord_W hp h16 hj (by omega), (h.expand hp).2⟩
      done := by simp }
  · rw [State.advance_expand_next (s.deriveWord s.IDX) hp h63,
      State.advance_expand_next (s'.deriveWord s.IDX) (h.PHASE ▸ hp) (h.IDX ▸ h63)]
    have hsucc := idx_succ_toNat _ h63
    exact { h with
      PHASE := rfl
      IDX := congrArg (· + 1) h.IDX
      key := by simp
      data := by simp
      expand := fun _ => ⟨fun j hj hlt =>
        h.deriveWord_W hp h16 hj (Nat.lt_succ_iff.mp (hlt.trans_eq hsucc)), (h.expand hp).2⟩
      round := by simp
      done := by simp }

/-- RSTEP reads `S`, `K` and the schedule word at `IDX`, which agree. -/
theorem applyRound_S (h : SameLive s s') (hp : s.PHASE = .round) :
    (s.applyRound s.IDX).S = (s'.applyRound s.IDX).S := by
  obtain ⟨hW, hS⟩ := h.round hp
  rw [State.applyRound_S, State.applyRound_S, hS, h.K, hW _ _ (Nat.le_refl _)]

theorem round_advance (h : SameLive s s') (hp : s.PHASE = .round) :
    SameLive (s.applyRound s.IDX).advance (s'.applyRound s.IDX).advance := by
  obtain ⟨hW, -⟩ := h.round hp
  by_cases h63 : s.IDX = 63
  · rw [State.advance_round_last (s.applyRound s.IDX) hp h63,
      State.advance_round_last (s'.applyRound s.IDX) (h.PHASE ▸ hp) (h.IDX ▸ h63)]
    exact { h with
      PHASE := rfl
      IDX := rfl
      key := by simp
      data := by simp
      expand := by simp
      round := by simp
      done := fun _ => h.applyRound_S hp }
  · rw [State.advance_round_next (s.applyRound s.IDX) hp h63,
      State.advance_round_next (s'.applyRound s.IDX) (h.PHASE ▸ hp) (h.IDX ▸ h63)]
    have hsucc := idx_succ_toNat _ h63
    exact { h with
      PHASE := rfl
      IDX := congrArg (· + 1) h.IDX
      key := by simp
      data := by simp
      expand := by simp
      round := fun _ => ⟨fun j hj hle => hW j hj (Nat.le_of_succ_le (hsucc.ge.trans hle)), h.applyRound_S hp⟩
      done := by simp }

/-- A command is accepted in both states or refused in both. -/
theorem command (h : SameLive s s') (c : Command) (act act' : State → State)
    (hact : accepts c s.PHASE = true → SameLive (act s) (act' s')) : SameLive (s.command c act) (s'.command c act') := by
  unfold State.command
  rw [← h.PHASE]
  split
  · next hacc => exact hact hacc
  · exact h.respond .refused 0

end SameLive

/-! ### The simulation -/

/-- Where the first outcome is a next state, so is the second, and the two states agree. -/
def OutcomesAgree (r r' : Result) : Prop := ∀ t, r = .next t → ∃ t', r' = .next t' ∧ SameLive t t'

theorem outcomesAgree_next {t t' : State} (h : SameLive t t') : OutcomesAgree (.next t) (.next t') := by
  intro u hu
  cases hu
  exact ⟨t', rfl, h⟩

theorem outcomesAgree_fault (f : Fault) (r' : Result) : OutcomesAgree (.fault f) r' := fun _ hu => by cases hu

section
variable {s s' : State}

theorem exec_decodeCmd_agree (h : SameLive s s') (c : CmdWord) :
    OutcomesAgree (exec (decodeCmd c) s) (exec (decodeCmd c) s') := by
  unfold decodeCmd
  split
  · exact outcomesAgree_next (h.command .nop _ _ fun _ => h.respond .ok 0)
  split
  · exact outcomesAgree_next (h.command .clr _ _ fun _ => h.endCall)
  split
  · exact outcomesAgree_next (h.command .pushk _ _ fun hacc => h.pushKey (eq_of_beq hacc) (imm8 c))
  split
  · exact outcomesAgree_next (h.command .pushd _ _ fun hacc => h.pushData (eq_of_beq hacc) (imm8 c))
  split
  · exact outcomesAgree_next (h.command .start _ _ fun hacc => h.startCall (eq_of_beq hacc))
  split
  · exact outcomesAgree_next (h.command .rdst _ _ fun _ => h.status_eq ▸ h.respond .ok s.status)
  split
  · exact outcomesAgree_next (h.command .rdout _ _ fun hacc =>
      h.done (eq_of_beq hacc) ▸ h.respond .ok (outByte s.S (idx5 c).toFin))
  · exact outcomesAgree_next (h.respond .illegal 0)

theorem exec_xstep_agree (h : SameLive s s') (i : BitVec 6) :
    OutcomesAgree (exec (.xstep i) s) (exec (.xstep i) s') := by
  simp only [exec, execXstep, ← h.PHASE, ← h.IDX]
  split
  · next hsel =>
    obtain ⟨hp, rfl, h16⟩ := hsel
    exact outcomesAgree_next (h.derive hp h16)
  · exact outcomesAgree_fault _ _

theorem exec_rstep_agree (h : SameLive s s') (i : BitVec 6) :
    OutcomesAgree (exec (.rstep i) s) (exec (.rstep i) s') := by
  simp only [exec, execRstep, ← h.PHASE, ← h.IDX]
  split
  · next hsel =>
    obtain ⟨hp, rfl⟩ := hsel
    exact outcomesAgree_next (h.round_advance hp)
  · exact outcomesAgree_fault _ _

/-- A sequencer word selects no operation but a micro-operation (R78). -/
theorem decodeSeq_eq_ok {q : SeqWord} {i : Instr} (h : decodeSeq q = .ok i) :
    (∃ n, i = .xstep n) ∨ ∃ n, i = .rstep n := by
  unfold decodeSeq at h
  split at h
  · split at h
    · exact .inl ⟨_, (Except.ok.inj h).symm⟩
    · cases h
  split at h
  · exact .inr ⟨_, (Except.ok.inj h).symm⟩
  · split_ifs at h

/-- A turn of the sequencer is the same micro-operation in both states, since `SEQ` is the same. -/
theorem sequencerTurn_agree (h : SameLive s s') :
    OutcomesAgree s.sequencerTurn.perform s'.sequencerTurn.perform := by
  unfold State.sequencerTurn
  rw [← h.seqWord_eq]
  split
  · next i hsel =>
    rcases decodeSeq_eq_ok hsel with ⟨n, rfl⟩ | ⟨n, rfl⟩
    · exact exec_xstep_agree h n
    · exact exec_rstep_agree h n
  · exact outcomesAgree_next h
  · exact outcomesAgree_fault _ _

theorem hostTurn_agree (h : SameLive s s') (c : CmdWord) :
    OutcomesAgree (s.hostTurn c).perform (s'.hostTurn c).perform := by
  have hr : s'.seqReachable = s.seqReachable := by simp only [State.seqReachable, h.seqWord_eq]
  simp only [State.hostTurn, hr, decode]
  cases s.seqReachable with
  | true => exact exec_decodeCmd_agree h c
  | false => exact outcomesAgree_fault _ _

theorem step_agree (h : SameLive s s') : OutcomesAgree (step s) (step s') := by
  unfold step State.nextAction
  rw [← h.inputs]
  split
  · exact sequencerTurn_agree h
  · exact sequencerTurn_agree (h.withInputs _)
  · exact hostTurn_agree (h.withInputs _) _
  · exact outcomesAgree_next (h.withInputs _).resetCore

end

/-- Settles O52: `step_agree`, the simulation of one step. -/
theorem unwrittenCellsAreNeverRead : Obligations.UnwrittenCellsAreNeverRead :=
  fun _ _ t h hstep => step_agree h t hstep

end Sys2Proof.Machine

/-! PROOFS. The output view and RDOUT (O18). -/

namespace Sys2Proof.Machine

/-- Bit `m` of byte `j` of the output view, in the word it is read from (R34). -/
theorem outBytes_getLsbD (regs : Vector Word 8) {j m : Nat} (hj : j < 32) (hm : m < 8) :
    (outBytes regs)[j].getLsbD m = regs[j / 4].getLsbD (24 - 8 * (j % 4) + m) := by
  have hbit : 8 * (3 - j % 4) + m = 24 - 8 * (j % 4) + m := by omega
  simp [outByte, byteAt, hm, hbit]

/-- The word of RDOUT `j` is 0x6000 + `j` (R72). -/
theorem encode_rdout {j : Nat} (hj : j < 32) :
    encode (.rdout (BitVec.ofNat 5 j)) = some (.cmd (BitVec.ofNat 16 (0x6000 + j))) := by
  have hword : 0x300#11 ++ BitVec.ofNat 5 j = BitVec.ofNat 16 (0x6000 + j) := by
    apply BitVec.eq_of_toNat_eq
    rw [BitVec.toNat_append, ← Nat.shiftLeft_add_eq_or_of_lt (BitVec.isLt _)]
    simp
    omega
  simp [encode, hword]

theorem exec_rdout_of_done {s : State} (hp : s.PHASE = .done) (j : BitVec 5) :
    exec (.rdout j) s = .next (s.respond .ok (outByte s.S j.toFin)) := by
  simp [exec, execRdout, State.command, accepts, hp]

theorem exec_rdout_of_ne_done {s : State} (hp : s.PHASE ≠ .done) (j : BitVec 5) :
    exec (.rdout j) s = .next (s.respond .refused 0) := by
  simp [exec, execRdout, State.command, accepts, hp]

/-- Settles O18: the view bit by bit, the word of RDOUT, and its two answers. -/
theorem rdoutReadsCiphertextByteOnlyWhenDone : Obligations.RdoutReadsCiphertextByteOnlyWhenDone := by
  intro s j hj
  refine ⟨fun m hm => outBytes_getLsbD s.S hj hm, encode_rdout hj, fun hp => ?_, fun hp => ?_⟩
  · have hidx : (BitVec.ofNat 5 j).toFin = ⟨j, hj⟩ := Fin.ext (Nat.mod_eq_of_lt hj)
    rw [exec_rdout_of_done hp, outBytes_getElem, hidx]
    rfl
  · exact exec_rdout_of_ne_done hp _

end Sys2Proof.Machine

/-! PROOFS. The round constants and the cube roots of the first 64 primes (O54). -/

namespace Sys2Proof.Machine

/-! ### The first 64 primes -/

/-- The first 64 primes, in order; `nth_prime_eq_firstPrimes` ties the table to `Nat.nth Nat.Prime`. -/
def firstPrimes : Vector Nat 64 :=
  #v[2, 3, 5, 7, 11, 13, 17, 19, 23, 29, 31, 37, 41, 43, 47, 53, 59, 61, 67, 71, 73, 79, 83, 89, 97, 101, 103, 107, 109, 113,
    127, 131, 137, 139, 149, 151, 157, 163, 167, 173, 179, 181, 191, 193, 197, 199, 211, 223, 227, 229, 233, 239, 241, 251,
    257, 263, 269, 271, 277, 281, 283, 293, 307, 311]

theorem firstPrimes_prime {i : Nat} (hi : i < 64) : firstPrimes[i].Prime := by
  have hall : ∀ p ∈ firstPrimes.toList, p.Prime := by norm_num [firstPrimes]
  exact hall _ (Vector.mem_toList_iff.mpr (Vector.getElem_mem hi))

theorem firstPrimes_lt_succ : ∀ i : Fin 63, firstPrimes[i.val] < firstPrimes[i.val + 1] := by decide

theorem firstPrimes_succ_le : ∀ i : Fin 63, firstPrimes[i.val + 1] ≤ firstPrimes[i.val] + 14 := by decide

/-- Every number strictly between two neighbours of the table has a proper divisor, and one of at most 17 will do. -/
theorem firstPrimes_gap_divisor : ∀ (i : Fin 63) (g : Fin 13),
    firstPrimes[i.val] + 1 + g.val < firstPrimes[i.val + 1] →
      ∃ d ∈ [2, 3, 5, 7, 11, 13, 17],
        d < firstPrimes[i.val] + 1 + g.val ∧ (firstPrimes[i.val] + 1 + g.val) % d = 0 := by
  decide

theorem firstPrimes_gap_not_prime (i : Fin 63) {m : Nat} (hlo : firstPrimes[i.val] < m)
    (hhi : m < firstPrimes[i.val + 1]) : ¬m.Prime := by
  obtain ⟨g, rfl⟩ := Nat.exists_eq_add_of_le (Nat.succ_le_of_lt hlo)
  have hg : g < 13 := by
    have := firstPrimes_succ_le i
    omega
  obtain ⟨d, hd, hlt, hmod⟩ := firstPrimes_gap_divisor i ⟨g, hg⟩ hhi
  have hd1 : d ≠ 1 := by
    rintro rfl
    simp at hd
  intro hprime
  rcases hprime.eq_one_or_self_of_dvd d (Nat.dvd_of_mod_eq_zero hmod) with h1 | hself
  · exact hd1 h1
  · exact hlt.ne hself

/-- A prime with no prime between it and the `i`-th is the next one. -/
theorem nth_prime_succ_of_gap {i q : Nat} (hq : q.Prime) (hlt : Nat.nth Nat.Prime i < q)
    (hgap : ∀ m, Nat.nth Nat.Prime i < m → m < q → ¬m.Prime) : Nat.nth Nat.Prime (i + 1) = q := by
  have hinf := Nat.infinite_setOfPred_prime
  have hcount : Nat.nth Nat.Prime (Nat.count Nat.Prime q) = q := Nat.nth_count hq
  have hik : i < Nat.count Nat.Prime q := (Nat.nth_lt_nth hinf).mp (hcount.symm ▸ hlt)
  have hle : Nat.nth Nat.Prime (i + 1) ≤ q := hcount ▸ (Nat.nth_le_nth hinf).mpr hik
  refine hle.eq_of_not_lt fun hbefore => ?_
  exact hgap _ ((Nat.nth_lt_nth hinf).mpr (Nat.lt_succ_self i)) hbefore (Nat.prime_nth_prime _)

/-- The table is the list of the first 64 primes: it starts with 2, and each entry is the prime after the one before. -/
theorem nth_prime_eq_firstPrimes {i : Nat} (hi : i < 64) : Nat.nth Nat.Prime i = firstPrimes[i] := by
  induction i with
  | zero => exact Nat.nth_prime_zero_eq_two
  | succ i ih =>
    have hprev := ih (by omega)
    refine nth_prime_succ_of_gap (firstPrimes_prime hi) ?_ fun m hlo hhi => ?_
    · exact hprev ▸ firstPrimes_lt_succ ⟨i, by omega⟩
    · exact firstPrimes_gap_not_prime ⟨i, by omega⟩ (hprev ▸ hlo) hhi

/-! ### Their cube roots -/

/-- The bounds of O54 entry by entry; the whole part of each cube root is below 7, since 311 is less than 7 cubed. -/
theorem roundConstants_cube_bounds : ∀ i : Fin 64, ∃ a : Fin 7,
    (a.val * 2 ^ 32 + roundConstants[i.val].toNat) ^ 3 ≤ firstPrimes[i.val] * 2 ^ 96 ∧
    firstPrimes[i.val] * 2 ^ 96 < (a.val * 2 ^ 32 + roundConstants[i.val].toNat + 1) ^ 3 := by
  decide

/-- Settles O54: the exact bounds of the table, with its primes named by `nth_prime_eq_firstPrimes`. -/
theorem roundConstantsAreCubeRootFractions : Obligations.RoundConstantsAreCubeRootFractions := by
  intro i hi
  obtain ⟨a, hlow, hhigh⟩ := roundConstants_cube_bounds ⟨i, hi⟩
  rw [nth_prime_eq_firstPrimes hi]
  exact ⟨a.val, hlow, hhigh⟩

end Sys2Proof.Machine

/-! PROOFS. The bytes of a word, and the source's two-step byte conversions (O32). -/

namespace Sys2Proof.Machine

/-! ### The bytes of an assembled word (R100, R102) -/

section
variable (b0 b1 b2 b3 : Byte)

@[simp] theorem byteAt_be32_zero : byteAt (be32 b0 b1 b2 b3) 0 = b3 := BitVec.extractLsb'_append_eq_right

@[simp] theorem byteAt_be32_one : byteAt (be32 b0 b1 b2 b3) 1 = b2 := by
  show (b0 ++ b1 ++ b2 ++ b3).extractLsb' 8 8 = b2
  rw [BitVec.extractLsb'_append_eq_of_le (by decide)]
  exact BitVec.extractLsb'_append_eq_right

@[simp] theorem byteAt_be32_two : byteAt (be32 b0 b1 b2 b3) 2 = b1 := by
  show (b0 ++ b1 ++ b2 ++ b3).extractLsb' 16 8 = b1
  rw [BitVec.extractLsb'_append_eq_of_le (by decide), BitVec.extractLsb'_append_eq_of_le (by decide)]
  exact BitVec.extractLsb'_append_eq_right

@[simp] theorem byteAt_be32_three : byteAt (be32 b0 b1 b2 b3) 3 = b0 := by
  show (b0 ++ b1 ++ b2 ++ b3).extractLsb' 24 8 = b0
  rw [BitVec.extractLsb'_append_eq_of_le (by decide), BitVec.extractLsb'_append_eq_of_le (by decide)]
  exact BitVec.extractLsb'_append_eq_left

/-- LE32 is BE32 of the bytes in the other order (R100, R101). -/
theorem le32_eq_be32 : le32 b0 b1 b2 b3 = be32 b3 b2 b1 b0 := rfl

end

/-- A word is the BE32 of its bytes: neighbouring slices join. -/
@[simp] theorem be32_byteAt (w : Word) : be32 (byteAt w 3) (byteAt w 2) (byteAt w 1) (byteAt w 0) = w := by
  unfold be32 byteAt
  rw [BitVec.extractLsb'_append_extractLsb'_eq_extractLsb' (show 8 * 3 = 8 * 2 + 8 from rfl),
    BitVec.extractLsb'_append_extractLsb'_eq_extractLsb' (show 8 * 2 = 8 * 1 + 8 from rfl),
    BitVec.extractLsb'_append_extractLsb'_eq_extractLsb' (show 8 * 1 = 8 * 0 + 8 from rfl)]
  exact BitVec.extractLsb'_eq_self

/-- REV32 assembles the bytes in the other order (R99). -/
theorem rev32_eq_be32 (w : Word) : rev32 w = be32 (byteAt w 0) (byteAt w 1) (byteAt w 2) (byteAt w 3) := rfl

/-- Settles O32: each conversion is a BE32 of bytes, and BE32 and the bytes of a word undo each other. -/
theorem twoStepByteConversionIsBigEndian : Obligations.TwoStepByteConversionIsBigEndian := by
  refine ⟨fun b0 b1 b2 b3 => ⟨?_, ?_, ?_⟩, fun w => ⟨?_, ?_, be32_byteAt w⟩⟩
  · simp [rev32_eq_be32, le32_eq_be32]
  · simp [beBytes]
  · simp [leBytes, le32_eq_be32]
  · simp [rev32_eq_be32]
  · simp [leBytes, beBytes, rev32_eq_be32]

end Sys2Proof.Machine

/-! PROOFS. Every interleaving of host commands with the 112 sequencer turns of a call reaches the same result (O49): the
state after `n` turns in closed form, kept by a command up to its answer and taken to turn `n + 1` by the sequencer. -/

namespace Sys2Proof.Machine

/-! ### What `SEQ` selects in a busy phase (R78) -/

@[simp] theorem seqIdx_append (p : BitVec 3) (i : BitVec 6) : seqIdx (p ++ i) = i := BitVec.extractLsb'_append_eq_right

theorem decode_seqWord_of_expand {s : State} (hp : s.PHASE = .expand) (h16 : 16 ≤ s.IDX.toNat) :
    decode (.seq s.seqWord) = .ok (.xstep s.IDX) := by
  have hword : s.seqWord = 0b001#3 ++ s.IDX := by rw [State.seqWord, hp]; rfl
  have hrow : (0b001#3 ++ s.IDX) &&& 0x1C0#9 = 0x040#9 := Laws.CodeMatchesRow.xstep s.IDX (decide_eq_true h16)
  rw [hword]
  simp [decode, decodeSeq, hrow, h16]

theorem decode_seqWord_of_round {s : State} (hp : s.PHASE = .round) :
    decode (.seq s.seqWord) = .ok (.rstep s.IDX) := by
  have hword : s.seqWord = 0b010#3 ++ s.IDX := by rw [State.seqWord, hp]; rfl
  have hrow : (0b010#3 ++ s.IDX) &&& 0x1C0#9 = 0x080#9 := Laws.CodeMatchesRow.rstep s.IDX rfl
  rw [hword]
  simp [decode, decodeSeq, hrow]

theorem State.seqReachable_of_decode {s : State} {i : Instr} (h : decode (.seq s.seqWord) = .ok i) :
    s.seqReachable = true := by
  simp [State.seqReachable_iff, h]

/-! ### A step in a busy phase -/

theorem State.busy_iff (s : State) : s.busy = true ↔ s.PHASE = .expand ∨ s.PHASE = .round := by
  simp [State.busy]

/-- A sequencer turn in EXPAND (R112, R160). -/
theorem step_tick_of_expand {s : State} {es : List Event} (hin : s.inputs = .tick :: es) (hp : s.PHASE = .expand)
    (h16 : 16 ≤ s.IDX.toNat) : step s = .next ((s.withInputs es).deriveWord s.IDX).advance := by
  rw [step_of_selected (decode_seqWord_of_expand hp h16) (.inr ⟨es, hin⟩), hin]
  exact exec_xstep_of_selected (s.withInputs es) hp h16

/-- A sequencer turn in ROUND (R132, R160). -/
theorem step_tick_of_round {s : State} {es : List Event} (hin : s.inputs = .tick :: es) (hp : s.PHASE = .round) :
    step s = .next ((s.withInputs es).applyRound s.IDX).advance := by
  rw [step_of_selected (decode_seqWord_of_round hp) (.inr ⟨es, hin⟩), hin]
  exact exec_rstep_of_selected (s.withInputs es) hp

/-- A command word that comes while the core is busy, legal or not, is answered and does nothing else (R82, R158). -/
theorem exec_decodeCmd_of_busy {s : State} (hb : s.busy = true) (c : CmdWord) :
    ∃ code d, exec (decodeCmd c) s = .next (s.respond code d) := by
  have hidle : s.PHASE ≠ .idle := by
    rcases s.busy_iff.mp hb with hp | hp <;> simp [hp]
  have hclr : accepts .clr s.PHASE = false := by
    rcases s.busy_iff.mp hb with hp | hp <;> simp [hp, accepts]
  obtain ⟨t, ht, hcases⟩ := exec_decodeCmd_cases c s
  rw [ht]
  rcases hcases with ⟨d, rfl⟩ | rfl | rfl | ⟨-, hacc, -⟩ | ⟨-, hp, -⟩ | ⟨-, hp, -⟩ | ⟨-, hp, -⟩
  · exact ⟨_, _, rfl⟩
  · exact ⟨_, _, rfl⟩
  · exact ⟨_, _, rfl⟩
  · simp [hclr] at hacc
  · exact absurd hp hidle
  · exact absurd hp hidle
  · exact absurd hp hidle

/-! ### The state after `n` turns of the sequencer -/

/-- The phase after `n` turns: 48 derivations, then 64 rounds (R161). -/
def phaseAfter (n : Nat) : Phase := if n < 48 then .expand else if n < 112 then .round else .done

/-- A call that started as `s` in (EXPAND, 16), after `n` turns of the sequencer, with `es` still to happen and `rs`
answered. The index counts on through the phases: it is 16 + `n` modulo 64. -/
def State.afterTurns (s : State) (n : Nat) (es : List Event) (rs : List RspWord) : State :=
  { s with
    W := expandFrom s.W (min n 48)
    S := roundsFrom s.K (expandFrom s.W 48) s.S (n - 48)
    PHASE := phaseAfter n
    IDX := BitVec.ofNat 6 (16 + n)
    inputs := es
    rsps := rs }

theorem State.afterTurns_zero {s : State} (hp : s.PHASE = .expand) (hi : s.IDX = 16) :
    s.afterTurns 0 s.inputs s.rsps = s := by
  cases s
  cases hp
  cases hi
  rfl

theorem toNat_turnIdx_of_lt_48 {n : Nat} (hn : n < 48) : (BitVec.ofNat 6 (16 + n)).toNat = 16 + n :=
  Nat.mod_eq_of_lt (by omega : 16 + n < 2 ^ 6)

theorem State.afterTurns_PHASE_of_lt_48 (s : State) {n : Nat} (hn : n < 48) (es : List Event) (rs : List RspWord) :
    (s.afterTurns n es rs).PHASE = .expand := if_pos hn

theorem State.afterTurns_PHASE_of_lt_112 (s : State) {n : Nat} (h48 : 48 ≤ n) (hn : n < 112) (es : List Event)
    (rs : List RspWord) : (s.afterTurns n es rs).PHASE = .round := by
  simp [State.afterTurns, phaseAfter, hn, h48]

/-- In EXPAND the index is at least 16, so that `SEQ` selects an XSTEP (R41, R78). -/
theorem State.le_afterTurns_IDX (s : State) {n : Nat} (hn : n < 48) (es : List Event) (rs : List RspWord) :
    16 ≤ (s.afterTurns n es rs).IDX.toNat :=
  (Nat.le_add_right 16 n).trans_eq (toNat_turnIdx_of_lt_48 hn).symm

theorem State.afterTurns_busy (s : State) {n : Nat} (hn : n < 112) (es : List Event) (rs : List RspWord) :
    (s.afterTurns n es rs).busy = true := by
  rw [State.busy_iff]
  rcases Nat.lt_or_ge n 48 with h48 | h48
  · exact .inl (s.afterTurns_PHASE_of_lt_48 h48 es rs)
  · exact .inr (s.afterTurns_PHASE_of_lt_112 h48 hn es rs)

theorem State.afterTurns_seqReachable (s : State) {n : Nat} (hn : n < 112) (es : List Event) (rs : List RspWord) :
    (s.afterTurns n es rs).seqReachable = true := by
  rcases Nat.lt_or_ge n 48 with h48 | h48
  · exact seqReachable_of_decode
      (decode_seqWord_of_expand (s.afterTurns_PHASE_of_lt_48 h48 es rs) (s.le_afterTurns_IDX h48 es rs))
  · exact seqReachable_of_decode (decode_seqWord_of_round (s.afterTurns_PHASE_of_lt_112 h48 hn es rs))

theorem turnIdx_succ (n : Nat) : BitVec.ofNat 6 (16 + n) + 1 = BitVec.ofNat 6 (16 + (n + 1)) := by
  rw [← Nat.add_assoc, BitVec.ofNat_add (16 + n) 1]
  rfl

/-- In a busy phase the advance takes the phase and the index of `n` turns to those of `n + 1`: the index wraps where the
phase changes (R161). -/
theorem State.advance_of_turns {u : State} {n : Nat} (hn : n < 112) (hp : u.PHASE = phaseAfter n)
    (hi : u.IDX = BitVec.ofNat 6 (16 + n)) :
    u.advance = u.setSeq (phaseAfter (n + 1)) (BitVec.ofNat 6 (16 + (n + 1))) := by
  have h63 : u.IDX = 63 ↔ n = 47 ∨ n = 111 := by
    rw [hi, ← BitVec.toNat_inj, BitVec.toNat_ofNat]
    show (16 + n) % 64 = 63 ↔ _
    omega
  rw [← turnIdx_succ, ← hi]
  rcases Nat.lt_or_ge n 48 with h48 | h48
  · have hexp : u.PHASE = .expand := by simp [hp, phaseAfter, h48]
    by_cases hlast : n = 47
    · have hidx := h63.mpr (.inl hlast)
      rw [u.advance_expand_last hexp hidx, hidx, hlast]
      rfl
    · have hnext : phaseAfter (n + 1) = .expand := if_pos (by omega)
      rw [u.advance_expand_next hexp (by rw [Ne, h63]; omega), hnext]
  · have hround : u.PHASE = .round := by simp [hp, phaseAfter, hn, h48]
    by_cases hlast : n = 111
    · have hidx := h63.mpr (.inr hlast)
      rw [u.advance_round_last hround hidx, hidx, hlast]
      rfl
    · have hnext : phaseAfter (n + 1) = .round := by
        rw [phaseAfter, if_neg (by omega), if_pos (by omega)]
      rw [u.advance_round_next hround (by rw [Ne, h63]; omega), hnext]

/-- A turn in EXPAND derives word `16 + n` (R112). -/
theorem State.step_afterTurns_expand (s : State) {n : Nat} (hn : n < 48) (es : List Event) (rs : List RspWord) :
    step (s.afterTurns n (.tick :: es) rs) = .next (s.afterTurns (n + 1) es rs) := by
  have hidx := toNat_turnIdx_of_lt_48 hn
  have hW : expandFrom s.W (min (n + 1) 48) = (expandFrom s.W (min n 48)).set (16 + n)
      (scheduleWord (expandFrom s.W (min n 48)) (16 + n) (by omega)) (by omega) := by
    rw [Nat.min_eq_left hn, Nat.min_eq_left hn.le, expandFrom_succ]
  have hS : n + 1 - 48 = n - 48 := by omega
  rw [step_tick_of_expand rfl (s.afterTurns_PHASE_of_lt_48 hn _ rs) (s.le_afterTurns_IDX hn _ rs),
    State.advance_of_turns (n := n) (by omega) rfl rfl]
  simp only [State.afterTurns, State.deriveWord, State.setSeq, State.withInputs, hW, hS, hidx]

/-- A turn in ROUND applies round `n - 48` with the word and the constant of that index (R132). -/
theorem State.step_afterTurns_round (s : State) {n : Nat} (h48 : 48 ≤ n) (hn : n < 112) (es : List Event)
    (rs : List RspWord) : step (s.afterTurns n (.tick :: es) rs) = .next (s.afterTurns (n + 1) es rs) := by
  have hidx : (BitVec.ofNat 6 (16 + n)).toNat = n - 48 := by
    rw [BitVec.toNat_ofNat]
    show (16 + n) % 64 = n - 48
    omega
  have hS : n + 1 - 48 = (n - 48) + 1 := by omega
  have hW : min n 48 = 48 := Nat.min_eq_right h48
  have hW' : min (n + 1) 48 = 48 := by omega
  rw [step_tick_of_round rfl (s.afterTurns_PHASE_of_lt_112 h48 hn _ rs), State.advance_of_turns (n := n) hn rfl rfl]
  simp only [State.afterTurns, State.applyRound, State.setSeq, State.withInputs, hW, hW', hS, hidx,
    roundsFrom_succ _ _ _ _ (by omega : n - 48 < 64)]

theorem State.step_afterTurns_tick (s : State) {n : Nat} (hn : n < 112) (es : List Event) (rs : List RspWord) :
    step (s.afterTurns n (.tick :: es) rs) = .next (s.afterTurns (n + 1) es rs) :=
  (Nat.lt_or_ge n 48).elim (s.step_afterTurns_expand · es rs) (s.step_afterTurns_round · hn es rs)

/-- A command before the last turn adds its one response. -/
theorem State.step_afterTurns_cmd (s : State) {n : Nat} (hn : n < 112) (c : CmdWord) (es : List Event)
    (rs : List RspWord) : ∃ r, step (s.afterTurns n (.cmd c :: es) rs) = .next (s.afterTurns n es (rs ++ [r])) := by
  obtain ⟨code, d, hexec⟩ := exec_decodeCmd_of_busy (s.afterTurns_busy hn es rs) c
  exact ⟨rspWord code d, (step_cmd _ c es rfl (s.afterTurns_seqReachable hn _ rs)).trans hexec⟩

/-! ### The run -/

/-- While turns of the sequencer are left, any commands and turns make a run that counts the turns and the commands. -/
theorem State.runs_afterTurns (s : State) (rest : List Event) {es : List Event} (hreset : .reset ∉ es) {n : Nat}
    (hn : n + es.count .tick < 112) (rs : List RspWord) :
    ∃ rs', Runs es.length (s.afterTurns n (es ++ rest) rs) (s.afterTurns (n + es.count .tick) rest rs') ∧
      rs'.length + es.count .tick = rs.length + es.length := by
  induction es generalizing n rs with
  | nil => exact ⟨rs, Runs.zero _, rfl⟩
  | cons e es ih =>
    have htail : .reset ∉ es := fun h => hreset (.tail _ h)
    cases e with
    | reset => exact absurd (.head _) hreset
    | tick =>
      rw [List.count_cons_self] at hn ⊢
      obtain ⟨rs', hruns, hlen⟩ := ih htail (n := n + 1) (by omega) rs
      refine ⟨rs', ?_, by simp only [List.length_cons]; omega⟩
      rw [← Nat.add_assoc, Nat.add_right_comm]
      exact Runs.succ (s.step_afterTurns_tick (by omega) _ rs) hruns
    | cmd c =>
      have hcount : (Event.cmd c :: es).count .tick = es.count .tick := List.count_cons_of_ne (by simp)
      rw [hcount] at hn ⊢
      obtain ⟨r, hstep⟩ := s.step_afterTurns_cmd (by omega : n < 112) c (es ++ rest) rs
      obtain ⟨rs', hruns, hlen⟩ := ih htail hn (rs ++ [r])
      refine ⟨rs', Runs.succ hstep hruns, ?_⟩
      simp only [List.length_append, List.length_cons, List.length_nil] at hlen ⊢
      omega

/-- Settles O49: the run through the first 111 turns, then the turn that completes the call. -/
theorem everyInterleavingReachesTheSameResult : Obligations.EveryInterleavingReachesTheSameResult := by
  intro s es rest hp hi hin hreset hcount
  obtain ⟨rs, hruns, hlen⟩ := s.runs_afterTurns (.tick :: rest) hreset (n := 0) (by omega) s.rsps
  rw [← hin, State.afterTurns_zero hp hi, hcount] at hruns
  have hle : 111 ≤ es.length := hcount ▸ List.count_le_length
  have hlast := s.step_afterTurns_tick (n := 111) (by decide) rest rs
  refine ⟨s.afterTurns 112 rest rs, hruns.trans (Runs.succ hlast (Runs.zero _)), rfl, rfl, rfl, rfl, rfl, rfl, rfl, rfl,
    rfl, rfl, rfl, ?_⟩
  show rs.length = _
  omega

end Sys2Proof.Machine

/-! PROOFS. The encodings of command and sequencer words (O1 to O5): the decoder's rows as arithmetic on the word, and
the decoder and the encoder as inverses of each other. -/

namespace Sys2Proof.Machine

/-! ### A masked word and its high part -/

section
variable {m n : Nat}

theorem toNat_append_add (x : BitVec m) (u : BitVec n) : (x ++ u).toNat = x.toNat * 2 ^ n + u.toNat := by
  rw [BitVec.toNat_append, ← Nat.shiftLeft_add_eq_or_of_lt u.isLt, Nat.shiftLeft_eq]

theorem toNat_append_div (x : BitVec m) (u : BitVec n) : (x ++ u).toNat / 2 ^ n = x.toNat := by
  rw [toNat_append_add, Nat.mul_comm, Nat.mul_add_div (Nat.two_pow_pos n), Nat.div_eq_of_lt u.isLt, Nat.add_zero]

/-- A mask over the high `m` bits tests the high part: a row of R72 or R78 whose operand is the low `n` bits. -/
theorem append_and_highMask_iff (x hi : BitVec m) (u : BitVec n) :
    (x ++ u) &&& (BitVec.allOnes m ++ 0#n) = hi ++ 0#n ↔ x = hi := by
  rw [Laws.append_and_append, Laws.and_zeros, BitVec.and_allOnes, BitVec.append_left_inj]

/-- The same test as arithmetic on the word. -/
theorem and_highMask_iff (c : BitVec (m + n)) (hi : BitVec m) :
    c &&& (BitVec.allOnes m ++ 0#n) = hi ++ 0#n ↔ c.toNat / 2 ^ n = hi.toNat := by
  generalize hx : c.extractLsb' n m = x
  generalize hu : c.extractLsb' 0 n = u
  obtain rfl : x ++ u = c := by rw [← hx, ← hu, BitVec.extractLsb'_append_extractLsb']
  rw [append_and_highMask_iff, toNat_append_div, BitVec.toNat_inj]

/-- A word whose high part is `hi` is `hi` followed by its low part. -/
theorem append_low_of_div_eq {c : BitVec (m + n)} {hi : BitVec m} (h : c.toNat / 2 ^ n = hi.toNat) :
    hi ++ c.extractLsb' 0 n = c := by
  have hhigh : hi = c.extractLsb' n m := by
    rw [← BitVec.toNat_inj, ← h, ← toNat_append_div (c.extractLsb' n m) (c.extractLsb' 0 n),
      BitVec.extractLsb'_append_extractLsb']
  rw [hhigh, BitVec.extractLsb'_append_extractLsb']

end

/-! ### Command words (R72, R76) -/

@[simp] theorem imm8_append (hi b : Byte) : imm8 (hi ++ b) = b := BitVec.extractLsb'_append_eq_right

@[simp] theorem idx5_append (hi : BitVec 11) (j : BitVec 5) : idx5 (hi ++ j) = j := BitVec.extractLsb'_append_eq_right

/-- The rows of R72 as numbers: four words, two pages of 256 words and one block of 32. -/
theorem decodeCmd_eq (c : CmdWord) : decodeCmd c =
    if c.toNat = 0x0000 then .nop
    else if c.toNat = 0x1000 then .clr
    else if c.toNat / 256 = 0x20 then .pushk (imm8 c)
    else if c.toNat / 256 = 0x30 then .pushd (imm8 c)
    else if c.toNat = 0x4000 then .start
    else if c.toNat = 0x5000 then .rdst
    else if c.toNat / 32 = 0x300 then .rdout (idx5 c)
    else .illegal c := by
  have hword (w : CmdWord) : c &&& 0xFFFF#16 = w ↔ c.toNat = w.toNat := by rw [and_ffff, BitVec.toNat_inj]
  have hpushk : c &&& 0xFF00#16 = 0x2000#16 ↔ c.toNat / 256 = 0x20 := and_highMask_iff (m := 8) (n := 8) c 0x20#8
  have hpushd : c &&& 0xFF00#16 = 0x3000#16 ↔ c.toNat / 256 = 0x30 := and_highMask_iff (m := 8) (n := 8) c 0x30#8
  have hrdout : c &&& 0xFFE0#16 = 0x6000#16 ↔ c.toNat / 32 = 0x300 := and_highMask_iff (m := 11) (n := 5) c 0x300#11
  simp only [decodeCmd, hword, hpushk, hpushd, hrdout]
  rfl

/-- R76's list as arithmetic on the word. -/
def InIllegalList (c : CmdWord) : Prop :=
  7 ≤ c.toNat / 4096 ∨ c.toNat / 256 % 16 ≠ 0 ∨
    ((c.toNat / 4096 = 0 ∨ c.toNat / 4096 = 1 ∨ c.toNat / 4096 = 4 ∨ c.toNat / 4096 = 5) ∧ c.toNat % 256 ≠ 0) ∨
    (c.toNat / 4096 = 6 ∧ c.toNat % 256 / 32 ≠ 0)

/-- The fields of R70 as digits of the word give R76's list. -/
theorem illegalWord_iff (c : CmdWord) : illegalWord c = true ↔ InIllegalList c := by
  have hop : (opField c).toNat = c.toNat / 4096 := by
    simp [opField, Nat.shiftRight_eq_div_pow]
    omega
  have hrsv : (rsvField c).toNat = c.toNat / 256 % 16 := by simp [rsvField, Nat.shiftRight_eq_div_pow]
  have harg : (argField c).toNat = c.toNat % 256 := by simp [argField]
  have hhigh : ((argField c).extractLsb' 5 3).toNat = c.toNat % 256 / 32 := by
    rw [BitVec.extractLsb'_toNat, harg, Nat.shiftRight_eq_div_pow]
    omega
  simp [illegalWord, InIllegalList, ← BitVec.toNat_inj, hop, hrsv, harg, hhigh, or_assoc]

/-- Row by row of `decodeCmd_eq`: a word of a row is outside R76's list, and a word outside all rows is in it. -/
theorem decodeCmd_eq_illegal_iff (c : CmdWord) : decodeCmd c = .illegal c ↔ InIllegalList c := by
  rw [decodeCmd_eq]
  unfold InIllegalList
  split_ifs <;> simp <;> omega

/-- Settles O4: no row of R72 has a word of R76's list, and every other word has a row. -/
theorem illegalWordsAreThoseListed : Obligations.IllegalWordsAreThoseListed := by
  intro c
  rw [decode, Except.ok.injEq]
  exact decodeCmd_eq_illegal_iff c

theorem decodeCmd_pushk (b : Byte) : decodeCmd (0x20#8 ++ b) = .pushk b := by
  have hpage : (0x20#8 ++ b).toNat / 256 = 0x20 := toNat_append_div 0x20#8 b
  rw [decodeCmd_eq, if_neg (by omega), if_neg (by omega), if_pos hpage, imm8_append]

theorem decodeCmd_pushd (b : Byte) : decodeCmd (0x30#8 ++ b) = .pushd b := by
  have hpage : (0x30#8 ++ b).toNat / 256 = 0x30 := toNat_append_div 0x30#8 b
  rw [decodeCmd_eq, if_neg (by omega), if_neg (by omega), if_neg (by omega), if_pos hpage, imm8_append]

theorem decodeCmd_rdout (j : BitVec 5) : decodeCmd (0x300#11 ++ j) = .rdout j := by
  have hblock : (0x300#11 ++ j).toNat / 32 = 0x300 := toNat_append_div 0x300#11 j
  rw [decodeCmd_eq, if_neg (by omega), if_neg (by omega), if_neg (by omega), if_neg (by omega), if_neg (by omega),
    if_neg (by omega), if_pos hblock, idx5_append]

/-- What a command word decodes to is well formed and has that word. -/
theorem encode_decodeCmd (c : CmdWord) : (decodeCmd c).wf = true ∧ encode (decodeCmd c) = some (.cmd c) := by
  have hword {w : CmdWord} (h : c.toNat = w.toNat) : some (Code.cmd w) = some (.cmd c) := by rw [BitVec.eq_of_toNat_eq h]
  by_cases hill : InIllegalList c
  · rw [(decodeCmd_eq_illegal_iff c).mpr hill]
    exact ⟨(illegalWord_iff c).mpr hill, rfl⟩
  rw [← decodeCmd_eq_illegal_iff, decodeCmd_eq] at hill
  rw [decodeCmd_eq]
  split_ifs at hill ⊢ with hnop hclr hpushk hpushd hstart hrdst hrdout
  · exact ⟨rfl, hword hnop⟩
  · exact ⟨rfl, hword hclr⟩
  · exact ⟨rfl, congrArg (some <| Code.cmd ·) (append_low_of_div_eq (m := 8) (n := 8) (hi := 0x20#8) hpushk)⟩
  · exact ⟨rfl, congrArg (some <| Code.cmd ·) (append_low_of_div_eq (m := 8) (n := 8) (hi := 0x30#8) hpushd)⟩
  · exact ⟨rfl, hword hstart⟩
  · exact ⟨rfl, hword hrdst⟩
  · exact ⟨rfl, congrArg (some <| Code.cmd ·) (append_low_of_div_eq (m := 11) (n := 5) (hi := 0x300#11) hrdout)⟩
  · exact absurd rfl hill

/-! ### Sequencer words (R78) -/

/-- A word of EXPAND: XSTEP from index 16 on. -/
theorem decodeSeq_expand (i : BitVec 6) :
    decodeSeq (0b001#3 ++ i) = if 16 ≤ i.toNat then .ok (.xstep i) else .error .unreachable := by
  have hrow : (0b001#3 ++ i) &&& 0x1C0#9 = 0x040#9 := (append_and_highMask_iff 0b001#3 0b001#3 i).mpr rfl
  simp [decodeSeq, hrow]

/-- A word of ROUND: RSTEP at every index. -/
theorem decodeSeq_round (i : BitVec 6) : decodeSeq (0b010#3 ++ i) = .ok (.rstep i) := by
  have hrow : (0b010#3 ++ i) &&& 0x1C0#9 = 0x080#9 := (append_and_highMask_iff 0b010#3 0b010#3 i).mpr rfl
  simp [decodeSeq, hrow]

/-- A word of IDLE, DONE or ERROR: no step at index 0, unreachable elsewhere. -/
theorem decodeSeq_quiet {p : BitVec 3} (hp : p = 0b000#3 ∨ p = 0b011#3 ∨ p = 0b100#3) (i : BitVec 6) :
    decodeSeq (p ++ i) = if i = 0 then .error .noStep else .error .unreachable := by
  by_cases hi : i = 0
  · obtain rfl := hi
    rcases hp with rfl | rfl | rfl <;> rfl
  · have hphase : p ≠ 0b001#3 ∧ p ≠ 0b010#3 := by rcases hp with rfl | rfl | rfl <;> decide
    have hexpand : (p ++ i) &&& 0x1C0#9 ≠ 0x040#9 := hphase.1 ∘ (append_and_highMask_iff p 0b001#3 i).mp
    have hround : (p ++ i) &&& 0x1C0#9 ≠ 0x080#9 := hphase.2 ∘ (append_and_highMask_iff p 0b010#3 i).mp
    have hidx (p' : BitVec 3) : p ++ i ≠ p' ++ 0#6 := fun h => hi (by simpa using congrArg seqIdx h)
    have hidle : p ++ i ≠ 0x000#9 := hidx 0b000#3
    have hdone : p ++ i ≠ 0x0C0#9 := hidx 0b011#3
    have herror : p ++ i ≠ 0x100#9 := hidx 0b100#3
    rw [if_neg hi]
    simp [decodeSeq, hexpand, hround, hidle, hdone, herror]

/-- What a sequencer word selects is well formed and has that word. -/
theorem encode_of_decodeSeq {q : SeqWord} {i : Instr} (h : decodeSeq q = .ok i) :
    i.wf = true ∧ encode i = some (.seq q) := by
  unfold decodeSeq at h
  split at h
  · next hrow =>
    split at h
    · next h16 =>
      obtain rfl := Except.ok.inj h
      have hhigh := (and_highMask_iff (m := 3) (n := 6) q 0b001#3).mp hrow
      exact ⟨decide_eq_true h16, congrArg (some <| Code.seq ·) (append_low_of_div_eq hhigh)⟩
    · cases h
  split at h
  · next hrow =>
    obtain rfl := Except.ok.inj h
    have hhigh := (and_highMask_iff (m := 3) (n := 6) q 0b010#3).mp hrow
    exact ⟨rfl, congrArg (some <| Code.seq ·) (append_low_of_div_eq hhigh)⟩
  · split_ifs at h

/-- Settles O5, by the phase. -/
theorem sequencerWordSelectsMicroOperation : Obligations.SequencerWordSelectsMicroOperation := by
  intro s
  show decodeSeq (s.PHASE.code ++ s.IDX) = _
  cases s.PHASE with
  | expand => exact decodeSeq_expand s.IDX
  | round => exact decodeSeq_round s.IDX
  | idle => exact decodeSeq_quiet (.inl rfl) s.IDX
  | done => exact decodeSeq_quiet (.inr (.inl rfl)) s.IDX
  | error => exact decodeSeq_quiet (.inr (.inr rfl)) s.IDX

/-! ### Both kinds of word -/

/-- Settles O1: each word evaluates. -/
theorem specWordsDecodeAsSpecified : Obligations.SpecWordsDecodeAsSpecified :=
  ⟨rfl, rfl, rfl, rfl, rfl, rfl, rfl, rfl, rfl, rfl, rfl, rfl⟩

/-- Settles O3: `encode_decodeCmd` and `encode_of_decodeSeq`, one for each port. -/
theorem encodeOfDecodeIsIdentity : Obligations.EncodeOfDecodeIsIdentity := by
  intro c i h
  cases c with
  | cmd c => exact Except.ok.inj h ▸ encode_decodeCmd c
  | seq q => exact encode_of_decodeSeq h

/-- Settles O2, by the operation: a constant word evaluates, a word with an operand lies in its row, an illegal word has
none. -/
theorem decodeOfEncodeIsIdentity : Obligations.DecodeOfEncodeIsIdentity := by
  intro i c hwf henc
  cases i with
  | nop | clr | start | rdst => exact Option.some.inj henc ▸ rfl
  | pushk b => exact Option.some.inj henc ▸ congrArg Except.ok (decodeCmd_pushk b)
  | pushd b => exact Option.some.inj henc ▸ congrArg Except.ok (decodeCmd_pushd b)
  | rdout j => exact Option.some.inj henc ▸ congrArg Except.ok (decodeCmd_rdout j)
  | illegal w =>
    have hlist := (illegalWord_iff w).mp hwf
    exact Option.some.inj henc ▸ congrArg Except.ok ((decodeCmd_eq_illegal_iff w).mpr hlist)
  | xstep n => exact Option.some.inj henc ▸ (decodeSeq_expand n).trans (if_pos (of_decide_eq_true hwf))
  | rstep n => exact Option.some.inj henc ▸ decodeSeq_round n
  | kload | sload | add32 | rotr | shr | sigma0s | sigma1s | sigma0b | sigma1b | ch | maj | rev32 | be32 | le32
  | bebytes | lebytes => cases henc

end Sys2Proof.Machine

/-! PROOFS. Where a step stops (O10), and the response of each step (O44). -/

namespace Sys2Proof.Machine

/-! ### A step stops or completes (R29, R160; U3) -/

@[simp] theorem State.withInputs_seqWord (s : State) (es : List Event) : (s.withInputs es).seqWord = s.seqWord := rfl

/-- At an unreachable sequencer word neither agent can step; only a reset is taken. -/
theorem step_of_unreachable {s : State} (hin : s.inputs.head? ≠ some .reset)
    (hseq : decode (.seq s.seqWord) = .error .unreachable) : step s = .fault .unreachableSeq := by
  have hturn (es : List Event) : (s.withInputs es).sequencerTurn = .stuck := by simp [State.sequencerTurn, hseq]
  have hhost (es : List Event) (c : CmdWord) : (s.withInputs es).hostTurn c = .stuck := by
    simp [State.hostTurn, State.seqReachable, hseq]
  cases hs : s.inputs with
  | nil => rw [step_turn s (.inl hs), hturn, Action.perform_stuck]
  | cons e es =>
    cases e with
    | tick => rw [step_turn s (.inr ⟨es, hs⟩), hturn, Action.perform_stuck]
    | cmd c => simp [step, State.nextAction, hs, hhost]
    | reset => simp [hs] at hin

/-- A turn of the sequencer at a reachable sequencer word completes. -/
theorem State.sequencerTurn_completes {s : State} (hr : s.seqReachable = true) :
    ∃ t, s.sequencerTurn.perform = .next t := by
  rcases s.sequencerTurn_cases with ⟨hp, h16, hturn⟩ | ⟨hp, hturn⟩ | ⟨-, -, hturn⟩ | ⟨hstuck, -⟩
  · exact ⟨_, by rw [hturn, Action.perform_run, exec_xstep_of_selected s hp h16]⟩
  · exact ⟨_, by rw [hturn, Action.perform_run, exec_rstep_of_selected s hp]⟩
  · exact ⟨_, by rw [hturn, Action.perform_settle]⟩
  · simp [hstuck] at hr

/-- At a reachable sequencer word every step completes. -/
theorem step_completes {s : State} (hr : s.seqReachable = true) : ∃ t, step s = .next t := by
  have hturn : ∃ t, (s.withInputs s.inputs.tail).sequencerTurn.perform = .next t :=
    State.sequencerTurn_completes (s := s.withInputs s.inputs.tail) hr
  cases hs : s.inputs with
  | nil => rwa [step_turn s (.inl hs)]
  | cons e es =>
    cases e with
    | tick => rwa [step_turn s (.inr ⟨es, hs⟩)]
    | cmd c =>
      obtain ⟨t, ht, -⟩ := exec_decodeCmd_cases c (s.withInputs es)
      exact ⟨t, (step_cmd s c es hs hr).trans ht⟩
    | reset => exact ⟨_, step_reset s es hs⟩

/-- Settles O10: a step completes where a reset is next or `SEQ` is reachable, and is the fault of U3 elsewhere. -/
theorem stepStopsOnlyOnUnreachableSeq : Obligations.StepStopsOnlyOnUnreachableSeq := by
  intro s
  by_cases hstop : s.inputs.head? ≠ some .reset ∧ decode (.seq s.seqWord) = .error .unreachable
  · simp [step_of_unreachable hstop.1 hstop.2, hstop]
  · have hnext : ∃ t, step s = .next t := by
      by_cases hseq : decode (.seq s.seqWord) = .error .unreachable
      · have hreset : s.inputs.head? = some .reset := by
          by_contra hne
          exact hstop ⟨hne, hseq⟩
        obtain ⟨es, hs⟩ := List.head?_eq_some_iff.mp hreset
        exact ⟨_, step_reset s es hs⟩
      · exact step_completes (s.seqReachable_iff.mpr hseq)
    obtain ⟨t, ht⟩ := hnext
    simp [ht, hstop]

/-! ### Responses (R73, R74) -/

/-- The response words the core can give (R74). -/
def IsListedResponse (r : RspWord) : Prop :=
  r.toNat < 256 ∨ r = 0x1000#16 ∨ r = 0x2000#16 ∨ r = 0x3001#16 ∨ r = 0x3002#16

theorem isListedResponse_ok (d : Byte) : IsListedResponse (rspWord .ok d) := by
  have hlow : (rspWord .ok d).toNat = d.toNat := by
    rw [rspWord, toNat_append_add, show (RspCode.ok.bits ++ 0#4).toNat = 0 from rfl, Nat.zero_mul, Nat.zero_add]
  exact .inl (hlow ▸ d.isLt)

theorem isListedResponse_lenerr (e : LengthError) : IsListedResponse (rspWord .lenerr (e.code.setWidth 8)) := by
  cases e with
  | invalidKeyLength => exact .inr (.inr (.inr (.inl rfl)))
  | invalidDataLength => exact .inr (.inr (.inr (.inr rfl)))

/-- START's action answers once, whatever it finds. -/
theorem State.startCall_rsps (s : State) : ∃ r, s.startCall.rsps = s.rsps ++ [r] ∧ IsListedResponse r := by
  rcases s.startCall_cases with ⟨-, hcall⟩ | ⟨-, -, hcall⟩ | ⟨-, -, hcall⟩ <;> rw [hcall]
  · exact ⟨_, s.raise_rsps _, isListedResponse_lenerr _⟩
  · exact ⟨_, s.raise_rsps _, isListedResponse_lenerr _⟩
  · exact ⟨rspWord .ok 0, by simp, isListedResponse_ok 0⟩

/-- A command word, legal or not, accepted or not, is answered once. -/
theorem exec_decodeCmd_rsps {c : CmdWord} {s t : State} (h : exec (decodeCmd c) s = .next t) :
    ∃ r, t.rsps = s.rsps ++ [r] ∧ IsListedResponse r := by
  obtain ⟨u, hu, hcases⟩ := exec_decodeCmd_cases c s
  obtain rfl : u = t := Host.Outcome.next.inj (hu.symm.trans h)
  rcases hcases with ⟨d, rfl⟩ | rfl | rfl | ⟨-, -, rfl⟩ | ⟨-, -, rfl⟩ | ⟨-, -, rfl⟩ | ⟨-, -, rfl⟩
  · exact ⟨_, s.respond_rsps .ok d, isListedResponse_ok d⟩
  · exact ⟨_, s.respond_rsps .refused 0, .inr (.inl rfl)⟩
  · exact ⟨_, s.respond_rsps .illegal 0, .inr (.inr (.inl rfl))⟩
  · exact ⟨_, s.endCall_rsps, isListedResponse_ok 0⟩
  · exact ⟨_, s.pushKey_rsps _, isListedResponse_ok 0⟩
  · exact ⟨_, s.pushData_rsps _, isListedResponse_ok 0⟩
  · exact s.startCall_rsps

/-- Only a command word is answered (R160, R210). -/
theorem StepEffect.rsps_of_no_command {e : Option Event} {u t : State} (h : StepEffect e u t)
    (he : ∀ c, e ≠ some (.cmd c)) : t.rsps = u.rsps := by
  cases h with
  | answer _ _ _ hcmd | clr hcmd | pushKey _ hcmd | pushData _ hcmd | raise _ hcmd | load hcmd =>
    exact absurd hcmd (he _)
  | _ => simp

/-- Settles O44: `exec_decodeCmd_rsps` for a command word, `StepEffect.rsps_of_no_command` for any other step. -/
theorem everyCommandGetsExactlyOneResponse : Obligations.EveryCommandGetsExactlyOneResponse := by
  intro s t h
  refine ⟨fun c hin => ?_, (step_effect h).rsps_of_no_command⟩
  rcases step_cases h with ⟨es, hs, -⟩ | ⟨c', es, -, -, hexec⟩ | ⟨hs | ⟨es, hs⟩, -⟩
  · simp [hs] at hin
  · exact exec_decodeCmd_rsps (s := s.withInputs es) hexec
  · simp [hs] at hin
  · simp [hs] at hin

end Sys2Proof.Machine

/-! PROOFS. The bit-mixing library (O25 to O31): the value of each function, bit by bit or as a number. A library
function's arm of `exec` is `setFnOut` of that value by definition (assumption log 5). -/

namespace Sys2Proof.Machine

/-! ### ADD32 (R90) -/

theorem toNat_add32 (a b : Word) (more : List Word) :
    (add32 a b more).toNat = (a.toNat + b.toNat + (more.map BitVec.toNat).sum) % 2 ^ 32 := BitVec.toNat_ofNat ..

/-- Reducing once at the end is reducing after every addition. -/
theorem add32_eq_foldl (a b : Word) (more : List Word) : add32 a b more = more.foldl (· + ·) (a + b) := by
  induction more generalizing a b with
  | nil => exact add32_nil a b
  | cons x more ih => rw [add32_cons, ih, List.foldl_cons]

/-- Settles O25: `toNat_add32` and `add32_eq_foldl`. -/
theorem addIsSumModuloTwoPow32 : Obligations.AddIsSumModuloTwoPow32 := fun a b more _ =>
  ⟨add32 a b more, rfl, toNat_add32 a b more, add32_eq_foldl a b more⟩

/-! ### ROTR and SHR (R91, R92) -/

/-- Below 32 the model's rotation is Lean's; its case `n = 0` is the one where the left shift is by the whole width. -/
theorem rotr_eq_rotateRight (x : Word) {n : Nat} (hn : n < 32) : rotr x n = x.rotateRight n := by
  unfold rotr
  split
  · next h0 => simp [h0, BitVec.rotateRight_def]
  · rw [BitVec.rotateRight_def, Nat.mod_eq_of_lt hn]

theorem getLsbD_rotr (x : Word) {n j : Nat} (hn : n < 32) (hj : j < 32) :
    (rotr x n).getLsbD j = x.getLsbD ((j + n) % 32) := by
  rw [rotr_eq_rotateRight x hn, BitVec.getLsbD_rotateRight, Nat.mod_eq_of_lt hn]
  by_cases hlow : j < 32 - n
  · have hmod : (j + n) % 32 = n + j := by omega
    simp [hlow, hmod]
  · have hmod : (j + n) % 32 = j - (32 - n) := by omega
    simp [hlow, hj, hmod]

theorem toNat_shr (x : Word) (n : Nat) : (shr x n).toNat = x.toNat / 2 ^ n := by
  rw [shr, BitVec.toNat_ushiftRight, Nat.shiftRight_eq_div_pow]

theorem getLsbD_shr (x : Word) (n j : Nat) :
    (shr x n).getLsbD j = if j + n ≤ 31 then x.getLsbD (j + n) else false := by
  rw [shr, BitVec.getLsbD_ushiftRight, Nat.add_comm]
  split
  · rfl
  · exact BitVec.getLsbD_of_ge x _ (by omega)

/-- Settles O26: `getLsbD_rotr`, `toNat_shr` and `getLsbD_shr`. -/
theorem rotateAndShiftBitByBit : Obligations.RotateAndShiftBitByBit := fun x n _ =>
  ⟨⟨rotr x n, rfl, fun _ hj => getLsbD_rotr x n.isLt hj⟩,
    ⟨shr x n, rfl, toNat_shr x n, fun j _ => getLsbD_shr x n j⟩⟩

/-! ### The sigma functions (R93 to R96) -/

/-- Settles O27: the amounts are those of the model's definitions, and `rotr_eq_rotateRight` reads its rotations. -/
theorem sigmaFunctionsHaveTheirAmounts : Obligations.SigmaFunctionsHaveTheirAmounts := by
  intro x s
  have hrot {n : Nat} (hn : n < 32) : x.rotateRight n = rotr x n := (rotr_eq_rotateRight x hn).symm
  simp only [hrot, Nat.reduceLT]
  exact ⟨rfl, rfl, rfl, rfl⟩

/-- A map of words that is linear over xor. -/
def XorLinear (f : Word → Word) : Prop := ∀ x y, f (x ^^^ y) = f x ^^^ f y

theorem XorLinear.xor {f g : Word → Word} (hf : XorLinear f) (hg : XorLinear g) :
    XorLinear fun x => f x ^^^ g x := by
  intro x y
  show f (x ^^^ y) ^^^ g (x ^^^ y) = (f x ^^^ g x) ^^^ (f y ^^^ g y)
  rw [hf, hg]
  ac_rfl

/-- A rotation permutes the bits, and xor acts on each of them. -/
theorem xorLinear_rotr {n : Nat} (hn : n < 32) : XorLinear (rotr · n) := by
  intro x y
  apply BitVec.eq_of_getLsbD_eq
  intro j hj
  simp only [BitVec.getLsbD_xor, getLsbD_rotr _ hn hj]

theorem xorLinear_shr (n : Nat) : XorLinear (shr · n) := fun x y => BitVec.ushiftRight_xor_distrib x y n

/-- Settles O28: each sigma function is a xor of three linear maps. -/
theorem sigmaFunctionsAreLinear : Obligations.SigmaFunctionsAreLinear := by
  have hrot (n : Nat) (hn : n < 32 := by decide) : XorLinear (rotr · n) := xorLinear_rotr hn
  have h0s : XorLinear sigma0s := ((hrot 7).xor (hrot 18)).xor (xorLinear_shr 3)
  have h1s : XorLinear sigma1s := ((hrot 17).xor (hrot 19)).xor (xorLinear_shr 10)
  have h0b : XorLinear sigma0b := ((hrot 2).xor (hrot 13)).xor (hrot 22)
  have h1b : XorLinear sigma1b := ((hrot 6).xor (hrot 11)).xor (hrot 25)
  exact fun x y => ⟨h0s x y, h1s x y, h0b x y, h1b x y⟩

/-! ### CH and MAJ (R97, R98) -/

section
variable (x y z : Word)

theorem getLsbD_ch (j : Nat) : (ch x y z).getLsbD j = if x.getLsbD j then y.getLsbD j else z.getLsbD j := by
  cases hx : x.getLsbD j with
  | true => simp [ch, hx]
  | false => simpa [ch, hx] using BitVec.lt_of_getLsbD

theorem getLsbD_maj (j : Nat) :
    (maj x y z).getLsbD j = decide (2 ≤ (x.getLsbD j).toNat + (y.getLsbD j).toNat + (z.getLsbD j).toNat) := by
  have hbit : ∀ a b c : Bool, ((a && b) ^^ (a && c) ^^ (b && c)) = decide (2 ≤ a.toNat + b.toNat + c.toNat) := by
    decide
  simp only [maj, BitVec.getLsbD_xor, BitVec.getLsbD_and, hbit]

theorem ch_eq_xor_and_xor : ch x y z = z ^^^ (x &&& (y ^^^ z)) := by
  have hbit : ∀ a b c : Bool, (if a then b else c) = (c ^^ (a && (b ^^ c))) := by decide
  apply BitVec.eq_of_getLsbD_eq
  intro j _
  simp only [getLsbD_ch, BitVec.getLsbD_xor, BitVec.getLsbD_and, hbit]

theorem maj_eq_and_or_and_or : maj x y z = (x &&& y) ||| (z &&& (x ||| y)) := by
  have hbit : ∀ a b c : Bool, decide (2 ≤ a.toNat + b.toNat + c.toNat) = ((a && b) || (c && (a || b))) := by decide
  apply BitVec.eq_of_getLsbD_eq
  intro j _
  simp only [getLsbD_maj, BitVec.getLsbD_or, BitVec.getLsbD_and, hbit]

end

/-- Settles O29: the bit lemmas of the two functions, and the equal forms that follow from them. -/
theorem chooseAndMajorityBitByBit : Obligations.ChooseAndMajorityBitByBit := fun x y z _ =>
  ⟨⟨ch x y z, rfl, ch_eq_xor_and_xor x y z, getLsbD_ch x y z⟩,
    ⟨maj x y z, rfl, maj_eq_and_or_and_or x y z, getLsbD_maj x y z⟩⟩

/-! ### Words and bytes (R99 to R102) -/

section
variable (b0 b1 b2 b3 : Byte)

theorem toNat_be32 :
    (be32 b0 b1 b2 b3).toNat = b0.toNat * 2 ^ 24 + b1.toNat * 2 ^ 16 + b2.toNat * 2 ^ 8 + b3.toNat := by
  unfold be32
  rw [toNat_append_add, toNat_append_add, toNat_append_add]
  omega

theorem rev32_be32 : rev32 (be32 b0 b1 b2 b3) = be32 b3 b2 b1 b0 := by simp [rev32_eq_be32]

end

/-- Settles O30: the operand of REV32 is the BE32 of its bytes, and LE32 is the BE32 of the bytes in the other order. -/
theorem wordsAreAssembledFromBytes : Obligations.WordsAreAssembledFromBytes := fun b0 b1 b2 b3 s =>
  ⟨congrArg (fun v => Host.Outcome.next (s.setFnOut (.word v))) (rev32_be32 b0 b1 b2 b3),
    ⟨be32 b0 b1 b2 b3, rfl, toNat_be32 b0 b1 b2 b3⟩,
    ⟨le32 b0 b1 b2 b3, rfl, (congrArg BitVec.toNat (le32_eq_be32 b0 b1 b2 b3)).trans (toNat_be32 b3 b2 b1 b0)⟩⟩

/-- Settles O31: byte `k` of a word is its slice from bit `8 * k`. -/
theorem wordsAreSplitIntoBytes : Obligations.WordsAreSplitIntoBytes := fun _ _ => ⟨rfl, rfl⟩

end Sys2Proof.Machine

/-! PROOFS. The key schedule (O21, O23, O33, O34, O39): the load of the key words, the derivation of one word, the whole
schedule as the one solution of its recurrence, and who writes `W`; with them what a round lets one read back from its
result (O36). -/

namespace Sys2Proof.Machine

/-! ### One derivation (R112) -/

/-- The word of XSTEP `n` (R78). -/
theorem encode_xstep {n : Nat} (hn : n < 64) :
    encode (.xstep (BitVec.ofNat 6 n)) = some (.seq (BitVec.ofNat 9 (0b001000000 + n))) := by
  have hword : 0b001#3 ++ BitVec.ofNat 6 n = BitVec.ofNat 9 (0b001000000 + n) := by
    apply BitVec.eq_of_toNat_eq
    rw [toNat_append_add, BitVec.toNat_ofNat, BitVec.toNat_ofNat, BitVec.toNat_ofNat]
    omega
  exact congrArg (some <| Code.seq ·) hword

theorem toNat_ofNat_idx {n : Nat} (hn : n < 64) : (BitVec.ofNat 6 n).toNat = n := Nat.mod_eq_of_lt hn

/-- The index of the last word, as a number. -/
theorem ofNat_idx_eq_63_iff {n : Nat} (hn : n < 64) : BitVec.ofNat 6 n = 63 ↔ n = 63 := by
  rw [← BitVec.toNat_inj, toNat_ofNat_idx hn]
  rfl

/-- The advance from EXPAND with the index as a number (R161). -/
theorem State.advance_expand_ofNat {s : State} {n : Nat} (hn : n < 64) (hp : s.PHASE = .expand)
    (hi : s.IDX = BitVec.ofNat 6 n) :
    s.advance = s.setSeq (if n = 63 then .round else .expand) (if n = 63 then 0 else BitVec.ofNat 6 (n + 1)) := by
  by_cases hlast : n = 63
  · rw [s.advance_expand_last hp (hi.trans ((ofNat_idx_eq_63_iff hn).mpr hlast)), if_pos hlast, if_pos hlast]
  · have h63 : s.IDX ≠ 63 := hi ▸ mt (ofNat_idx_eq_63_iff hn).mp hlast
    rw [s.advance_expand_next hp h63, if_neg hlast, if_neg hlast, hi, BitVec.ofNat_add n 1]
    rfl

/-- The entry XSTEP writes, from the old `W`. -/
theorem State.deriveWord_W_self (s : State) {n : Nat} (hn : n < 64) :
    (s.deriveWord (BitVec.ofNat 6 n)).W[n] =
      sigma1s s.W[n - 2] + s.W[n - 7] + sigma0s s.W[n - 15] + s.W[n - 16] := by
  simp [toNat_ofNat_idx hn, scheduleWord_eq]

theorem State.deriveWord_W_of_ne (s : State) {n j : Nat} (hn : n < 64) (hj : j < 64) (hne : j ≠ n) :
    (s.deriveWord (BitVec.ofNat 6 n)).W[j] = s.W[j] := by
  rw [State.deriveWord_W, Vector.getElem_set_ne _ hj (by rw [toNat_ofNat_idx hn]; exact hne.symm)]

/-- Settles O23: `SEQ` selects XSTEP, which writes the derived `W` and advances. -/
theorem xstepDerivesOneScheduleWord : Obligations.XstepDerivesOneScheduleWord := by
  intro s n h16 hn hp hi
  have h16' : 16 ≤ s.IDX.toNat := by rwa [hi, toNat_ofNat_idx hn]
  have hexec := exec_xstep_of_selected s hp h16'
  rw [hi, State.advance_expand_ofNat (s := s.deriveWord _) hn hp hi] at hexec
  exact ⟨encode_xstep hn, _, hexec, s.deriveWord_W_self hn, fun j hj hne => s.deriveWord_W_of_ne hn hj hne⟩

/-! ### The schedule as the one solution of its recurrence (R113, R116) -/

theorem isSchedule_expandW (k : Vector Word 16) : IsSchedule k (expandW k) where
  key _ h := expandW_getElem_of_lt k h
  derived i h16 h := (expandW_getElem_of_ge k h16 h).trans (scheduleWord_eq _ i h)

/-- Two schedules of one key agree at each index, by strong induction: a derived word is fixed by earlier ones. -/
theorem IsSchedule.unique {k : Vector Word 16} {w w' : Vector Word 64} (hw : IsSchedule k w) (hw' : IsSchedule k w') :
    w = w' := by
  refine Vector.ext fun i hi => ?_
  induction i using Nat.strong_induction_on with
  | _ i ih =>
    rcases Nat.lt_or_ge i 16 with h16 | h16
    · exact (hw.key i h16).trans (hw'.key i h16).symm
    · calc w[i] = scheduleWord w i hi := (hw.derived i h16 hi).trans (scheduleWord_eq w i hi).symm
        _ = scheduleWord w' i hi := scheduleWord_congr w w' i h16 hi fun j hj hlt => ih j hlt hj
        _ = w'[i] := (scheduleWord_eq w' i hi).trans (hw'.derived i h16 hi).symm

/-- Zeros solve the recurrence because both sigma functions keep zero. -/
theorem isSchedule_zero : IsSchedule (Vector.replicate 16 0) (Vector.replicate 64 0) where
  key i h := by simp
  derived i _ h := by
    have hsigma0 : sigma0s 0 = 0 := by decide
    have hsigma1 : sigma1s 0 = 0 := by decide
    simp only [Vector.getElem_replicate, hsigma0, hsigma1]
    rfl

/-- Settles O33: `EXPANDW` solves the recurrence, and uniqueness gives the rest. -/
theorem expandwIsTheUniqueSchedule : Obligations.ExpandwIsTheUniqueSchedule :=
  ⟨isSchedule_expandW, fun k _ hw => hw.unique (isSchedule_expandW k), (isSchedule_expandW _).unique isSchedule_zero⟩

/-- What stands in `W[16..63]` does not matter: after `n` derivations the first `16 + n` words depend on the first sixteen
alone. -/
theorem expandFrom_congr {w w' : Vector Word 64} (hkey : ∀ (j : Nat) (hj : j < 16), w[j] = w'[j]) {n : Nat}
    (hn : n ≤ 48) {j : Nat} (hj : j < 16 + n) : (expandFrom w n)[j] = (expandFrom w' n)[j] := by
  induction n generalizing j with
  | zero => exact hkey j hj
  | succ n ih =>
    have hlt : 16 + n < 64 := by omega
    rw [expandFrom_succ w n hlt, expandFrom_succ w' n hlt]
    obtain hold | rfl : j < 16 + n ∨ j = 16 + n := by omega
    · rw [Vector.getElem_set_ne _ _ (by omega), Vector.getElem_set_ne _ _ (by omega)]
      exact ih (by omega) hold
    · rw [Vector.getElem_set_self, Vector.getElem_set_self]
      exact scheduleWord_congr _ _ _ (by omega) hlt fun i _ hi => ih (by omega) hi

/-- Settles O34: `expandFrom_congr` against the zeros of `keyPadded`. -/
theorem staleScheduleWordsAreOverwritten : Obligations.StaleScheduleWordsAreOverwritten := by
  intro k w hkey
  have hpad : ∀ (j : Nat) (hj : j < 16), w[j] = (keyPadded k)[j] := fun j hj => by simp [hkey j hj, hj]
  exact Vector.ext fun j hj => expandFrom_congr hpad (Nat.le_refl 48) hj

/-! ### What a round keeps apart (R119, R133) -/

/-- A round's result holds the first seven registers and `t1`: six registers shifted by one place, `t2` a function of
three of them, so `t1` from the new `S[0]`, and with it `S[3]` from the new `S[4]`. -/
theorem roundFn_inj {st st' : Vector Word 8} {w w' k k' : Word} (h : roundFn st w k = roundFn st' w' k') :
    (∀ (i : Nat) (hi : i < 7), st[i] = st'[i]) ∧ roundT1 st w k = roundT1 st' w' k' := by
  rw [roundFn_eq, roundFn_eq] at h
  have entry (i : Nat) (hi : i < 8) := congrArg (fun v : Vector Word 8 => v[i]) h
  have h0 : st[0] = st'[0] := entry 1 (by decide)
  have h1 : st[1] = st'[1] := entry 2 (by decide)
  have h2 : st[2] = st'[2] := entry 3 (by decide)
  have ht2 : roundT2 st = roundT2 st' := by rw [roundT2_eq, roundT2_eq, h0, h1, h2]
  have hsum : roundT1 st w k + roundT2 st = roundT1 st' w' k' + roundT2 st' := entry 0 (by decide)
  have ht1 : roundT1 st w k = roundT1 st' w' k' := add_right_cancel (ht2 ▸ hsum)
  have h3sum : st[3] + roundT1 st w k = st'[3] + roundT1 st' w' k' := entry 4 (by decide)
  have h3 : st[3] = st'[3] := add_right_cancel (ht1 ▸ h3sum)
  refine ⟨fun i hi => ?_, ht1⟩
  interval_cases i
  · exact h0
  · exact h1
  · exact h2
  · exact h3
  · exact entry 5 (by decide)
  · exact entry 6 (by decide)
  · exact entry 7 (by decide)

/-- With one word and constant a round is injective: the last register is what is left of `t1`. -/
theorem roundFn_inj_state {st st' : Vector Word 8} {w k : Word} (h : roundFn st w k = roundFn st' w k) : st = st' := by
  obtain ⟨hlow, ht1⟩ := roundFn_inj h
  have h7 : st[7] = st'[7] := by
    rw [roundT1_eq, roundT1_eq, hlow 4 (by decide), hlow 5 (by decide), hlow 6 (by decide)] at ht1
    simpa only [add_left_inj] using ht1
  refine Vector.ext fun i hi => ?_
  obtain hlt | rfl : i < 7 ∨ i = 7 := by omega
  · exact hlow i hlt
  · exact h7

/-- With one state and constant a round is injective in its word, a summand of `t1`. -/
theorem roundFn_inj_word {st : Vector Word 8} {w w' k : Word} (h : roundFn st w k = roundFn st w' k) : w = w' := by
  obtain ⟨-, ht1⟩ := roundFn_inj h
  simpa only [roundT1_eq, add_left_inj, add_right_inj] using ht1

/-- Settles O36: `roundFn_inj_state` and `roundFn_inj_word`. -/
theorem roundIsInjectiveInStateAndInScheduleWord : Obligations.RoundIsInjectiveInStateAndInScheduleWord :=
  ⟨fun _ _ _ _ h => roundFn_inj_state h, fun _ _ _ _ h => roundFn_inj_word h⟩

/-! ### Who writes `W` (R23, R111, R117) -/

/-- `W` changes only by the load of START and by a derivation. -/
theorem StepEffect.W_change {e : Option Event} {u t : State} (h : StepEffect e u t) (he : e ≠ some .reset)
    (hne : t.W ≠ u.W) : u.PHASE = .idle ∨ u.PHASE = .expand := by
  cases h with
  | reset hreset => exact absurd hreset he
  | load _ hp _ _ => exact .inl hp
  | derive _ hp _ _ => exact .inr hp
  | deriveLast _ hp _ => exact .inr hp
  | _ => simp at hne

/-- Settles O39: `StepEffect.W_change` names the two phases that write `W`, and neither is ROUND or DONE. -/
theorem scheduleIsReadOnlyOnceComplete : Obligations.ScheduleIsReadOnlyOnceComplete := by
  intro s t hp he h
  by_contra hne
  have hwrites : s.PHASE = .idle ∨ s.PHASE = .expand := (step_effect h).W_change he hne
  rcases hp with hp | hp <;> simp [hp] at hwrites

/-- Settles O21: KLOAD writes `keyLoaded`, whose two ranges are `keyLoaded_low` and `keyLoaded_high`. -/
theorem kloadLoadsKeyWords : Obligations.KloadLoadsKeyWords := fun s =>
  ⟨keyLoaded s.KB s.W, rfl, keyLoaded_low s.KB s.W, keyLoaded_high s.KB s.W⟩

end Sys2Proof.Machine

/-! PROOFS. The round engine (O22, O24, O35, O37, O50, O53): the load of the plaintext words, one round, the block read
back from its ciphertext, and a whole call, from START to DONE and again after CLR. -/

namespace Sys2Proof.Machine

/-! ### The load and the round function (R131, R133) -/

/-- Settles O22: SLOAD writes `ptWords`, whose entries are the big-endian words of `DB`. -/
theorem sloadLoadsPlaintextWords : Obligations.SloadLoadsPlaintextWords := fun s =>
  ⟨ptWords s.DB, rfl, ptWords_getElem s.DB⟩

/-- The round function with both sums written out (R133). -/
theorem roundFn_eq_of_sums {st : Vector Word 8} {w k t1 t2 : Word}
    (ht1 : t1 = st[7] + sigma1b st[4] + ch st[4] st[5] st[6] + w + k)
    (ht2 : t2 = sigma0b st[0] + maj st[0] st[1] st[2]) :
    roundFn st w k = #v[t1 + t2, st[0], st[1], st[2], st[3] + t1, st[4], st[5], st[6]] := by
  rw [roundFn_eq, roundT1_eq, roundT2_eq, ← ht1, ← ht2]

/-- Settles O35: `roundFn_eq_of_sums` for both lists, since simultaneous assignments read old values only, so that the
source's list is the first one renamed. -/
theorem roundfnIsTheSourceAssignmentList : Obligations.RoundfnIsTheSourceAssignmentList := by
  intro s0 s1 s2 s3 s4 s5 s6 s7 w k
  have hvalues := roundFn_eq_of_sums (st := #v[s0, s1, s2, s3, s4, s5, s6, s7]) (w := w) (k := k) rfl rfl
  exact ⟨hvalues, hvalues⟩

/-! ### One round of the machine (R132, R161) -/

/-- A sequencer word as a number: the phase code above the six bits of the index (R32). -/
theorem append_ofNat_idx (p : BitVec 3) {n : Nat} (hn : n < 64) :
    p ++ BitVec.ofNat 6 n = BitVec.ofNat 9 (p.toNat * 64 + n) := by
  apply BitVec.eq_of_toNat_eq
  rw [toNat_append_add, toNat_ofNat_idx hn, BitVec.toNat_ofNat]
  omega

/-- The word of RSTEP `n` (R78). -/
theorem encode_rstep {n : Nat} (hn : n < 64) :
    encode (.rstep (BitVec.ofNat 6 n)) = some (.seq (BitVec.ofNat 9 (0b010000000 + n))) :=
  congrArg (some <| Code.seq ·) (append_ofNat_idx 0b010#3 hn)

/-- The advance from ROUND with the index as a number (R161). -/
theorem State.advance_round_ofNat {s : State} {n : Nat} (hn : n < 64) (hp : s.PHASE = .round)
    (hi : s.IDX = BitVec.ofNat 6 n) :
    s.advance = s.setSeq (if n = 63 then .done else .round) (if n = 63 then 0 else BitVec.ofNat 6 (n + 1)) := by
  have hlast : s.IDX = 63 ↔ n = 63 := hi ▸ ofNat_idx_eq_63_iff hn
  have hsucc : s.IDX + 1 = BitVec.ofNat 6 (n + 1) := by rw [hi, BitVec.ofNat_add n 1]; rfl
  rw [s.advance_round hp, hsucc]
  simp only [hlast]
  split <;> rfl

/-- RSTEP's write with the index as a number. -/
theorem State.applyRound_ofNat (s : State) {n : Nat} (hn : n < 64) :
    s.applyRound (BitVec.ofNat 6 n) = { s with S := roundFn s.S s.W[n] s.K[n] } := by
  simp only [State.applyRound, toNat_ofNat_idx hn]

/-- Settles O24: `SEQ` selects RSTEP, which writes `roundFn` of the old registers and advances. -/
theorem rstepAppliesOneRound : Obligations.RstepAppliesOneRound := by
  intro s n hn hp hi
  refine ⟨encode_rstep hn, fun t1 t2 ht1 ht2 => ?_⟩
  have hexec := exec_rstep_of_selected s hp
  rw [hi, State.advance_round_ofNat (s := s.applyRound _) hn hp hi, s.applyRound_ofNat hn,
    roundFn_eq_of_sums ht1 ht2] at hexec
  exact hexec

/-! ### The block read back from its ciphertext (R136) -/

/-- Rounds under one table and schedule are undone one by one, the last one first. -/
theorem roundsFrom_inj {kt w : Vector Word 64} {p p' : Vector Word 8} {n : Nat} (hn : n ≤ 64)
    (h : roundsFrom kt w p n = roundsFrom kt w p' n) : p = p' := by
  induction n with
  | zero => exact h
  | succ n ih =>
    rw [roundsFrom_succ kt w p n hn, roundsFrom_succ kt w p' n hn] at h
    exact ih (Nat.le_of_succ_le hn) (roundFn_inj_state h)

/-- Settles O37: `ENCRYPTW` is 64 rounds under the schedule of the key. -/
theorem encryptionIsInjectiveInTheBlock : Obligations.EncryptionIsInjectiveInTheBlock :=
  fun _ _ _ _ h => roundsFrom_inj (Nat.le_refl 64) h

/-! ### An accepted call (R139, R155) -/

/-- The state an accepted START with good lengths leaves (R155). -/
def State.callLoaded (s : State) : State := (s.loadKey.loadData.setSeq .expand 16).respond .ok 0

/-- START with good lengths in IDLE is accepted, and loads the key and the block. -/
theorem step_start_of_lengths {s : State} {es : List Event} (hp : s.PHASE = .idle) (hi : s.IDX = 0) (hk : s.KLEN = 64)
    (hd : s.DLEN = 32) (hin : s.inputs = .cmd 0x4000#16 :: es) :
    step s = .next (s.withInputs es).callLoaded := by
  have hreach : s.seqReachable = true := by
    rw [State.seqReachable, State.seqWord, hp, hi]
    rfl
  rw [step_cmd s _ es hin hreach]
  show execStart (s.withInputs es) = _
  simp [execStart, State.command, accepts, State.startCall, State.callLoaded, hp, hk, hd]

/-- From the words KLOAD leaves in `W`, whatever stands above them, the derivations give the key's schedule (R116). -/
theorem expandFrom_keyLoaded (kb : Vector Byte 64) (w : Vector Word 64) :
    expandFrom (keyLoaded kb w) 48 = expandW (keyWords kb) :=
  staleScheduleWordsAreOverwritten (keyWords kb) _ fun i h => by rw [keyLoaded_low kb w i h, keyWords_getElem kb i h]

/-- Settles O50: START, then the run of `everyInterleavingReachesTheSameResult` from the loaded state. -/
theorem acceptedCallComputesTheCiphertext : Obligations.AcceptedCallComputesTheCiphertext := by
  intro s es hp hi hk hd hin hreset hcount
  have hstart := step_start_of_lengths hp hi hk hd hin
  obtain ⟨t, hruns, hdone, -, -, hW, hS, -⟩ :=
    everyInterleavingReachesTheSameResult (s.withInputs (es ++ [.tick])).callLoaded es [] rfl rfl rfl hreset hcount
  have hcipher : t.S = encryptW s.K (keyWords s.KB) (ptWords s.DB) := by
    rw [hS, hW]
    simp [State.callLoaded, encryptW, expandFrom_keyLoaded]
  refine ⟨t, Runs.succ hstart hruns, hdone, hcipher, ?_⟩
  rw [hcipher, encryptB]

/-! ### After CLR (R140, R152) -/

/-- CLR outside the busy phases is accepted (R82, R152). -/
theorem exec_clr_of_quiet {s : State} (hp : s.PHASE = .idle ∨ s.PHASE = .done ∨ s.PHASE = .error) :
    exec .clr s = .next s.endCall := by
  rcases hp with hp | hp | hp <;> simp [exec, execClr, State.command, accepts, hp]

/-- After CLR no cell of the four arrays is live: the phase is IDLE and both counters are zero (R38). -/
theorem State.endCall_sameLive (s : State) (a : Vector Word 8) (b : Vector Word 64) (c : Vector Byte 64)
    (d : Vector Byte 32) : SameLive s.endCall { s.endCall with S := a, W := b, KB := c, DB := d } where
  K := rfl
  KLEN := rfl
  DLEN := rfl
  PHASE := rfl
  IDX := rfl
  ERR := rfl
  inputs := rfl
  rsps := rfl
  key := by simp
  data := by simp
  expand := by simp
  round := by simp
  done := by simp

/-- The simulation `step_agree` along a run. -/
theorem SameLive.runs {n : Nat} {s s' t : State} (h : SameLive s s') (hruns : Runs n s t) :
    ∃ t', Runs n s' t' ∧ SameLive t t' := by
  induction n generalizing s s' with
  | zero =>
    cases hruns
    exact ⟨s', Runs.zero s', h⟩
  | succ n ih =>
    obtain ⟨u, hstep, hrest⟩ := hruns.succ_inv
    obtain ⟨u', hstep', hu⟩ := step_agree h u hstep
    obtain ⟨t', hrest', ht⟩ := ih hu hrest
    exact ⟨t', Runs.succ hstep' hrest', ht⟩

/-- Settles O53: the state after CLR and the one with other arrays agree on all live cells, and runs keep that. -/
theorem earlierCallsAreUnobservable : Obligations.EarlierCallsAreUnobservable := by
  intro s n a b c d u v t hp hclr hv hruns
  obtain rfl : s.endCall = u := Host.Outcome.next.inj ((exec_clr_of_quiet hp).symm.trans hclr)
  obtain ⟨t', hruns', ht⟩ := (s.endCall_sameLive a b c d).runs hruns
  exact ⟨t', hv ▸ hruns', ht.rsps.symm, ht.PHASE.symm, ht.ERR.symm⟩

end Sys2Proof.Machine

/-! PROOFS. The host commands one by one (O8, O11 to O16, O19, O20): what each answers and changes in the phases that
accept it, and its refusal in the others; with them the quiet turn of the sequencer. -/

namespace Sys2Proof.Machine

/-! ### The quiet phases (R78, R160) -/

/-- The sequencer word of IDLE, DONE or ERROR at index 0 selects no micro-operation. -/
theorem decode_seqWord_of_quiet {s : State} (hp : s.PHASE = .idle ∨ s.PHASE = .done ∨ s.PHASE = .error)
    (hi : s.IDX = 0) : decode (.seq s.seqWord) = .error .noStep := by
  have hcode : s.PHASE.code = 0b000#3 ∨ s.PHASE.code = 0b011#3 ∨ s.PHASE.code = 0b100#3 :=
    hp.imp (congrArg Phase.code) (.imp (congrArg Phase.code) (congrArg Phase.code))
  exact (decodeSeq_quiet hcode s.IDX).trans (if_pos hi)

theorem State.seqReachable_of_quiet {s : State} (hp : s.PHASE = .idle ∨ s.PHASE = .done ∨ s.PHASE = .error)
    (hi : s.IDX = 0) : s.seqReachable = true := by
  simp [State.seqReachable_iff, decode_seqWord_of_quiet hp hi]

/-- The quiet sequencer's turn takes its event, if one waits, and does nothing else. -/
theorem step_turn_of_quiet {s : State} (hp : s.PHASE = .idle ∨ s.PHASE = .done ∨ s.PHASE = .error) (hi : s.IDX = 0)
    (hturn : s.inputs = [] ∨ ∃ es, s.inputs = .tick :: es) : step s = .next (s.withInputs s.inputs.tail) := by
  rw [step_turn s hturn, State.sequencerTurn, State.withInputs_seqWord, decode_seqWord_of_quiet hp hi,
    Action.perform_settle]

/-- Settles O8: both clauses are `step_turn_of_quiet`; with no event waiting, the tail of the list is the list. -/
theorem quiescentSequencerTurnChangesNothing : Obligations.QuiescentSequencerTurnChangesNothing := by
  intro s es hp hi
  refine ⟨fun hin => ?_, fun hin => ?_⟩
  · have hstep := step_turn_of_quiet hp hi (.inr ⟨es, hin⟩)
    rwa [hin] at hstep
  · have hstep := step_turn_of_quiet hp hi (.inl hin)
    have hsame : s.withInputs s.inputs.tail = s := by rw [hin, List.tail_nil, ← hin]; rfl
    rwa [hsame] at hstep

/-! ### Accepted and refused commands (R82, R150, R159) -/

theorem State.command_of_accepts {s : State} {c : Command} (act : State → State) (h : accepts c s.PHASE = true) :
    s.command c act = act s := if_pos h

theorem State.command_of_not_accepts {s : State} {c : Command} (act : State → State)
    (h : accepts c s.PHASE = false) : s.command c act = s.respond .refused 0 := by
  simp [State.command, h]

/-- PUSHK, PUSHD and START are the commands that IDLE alone accepts (R82). -/
theorem accepts_eq_idle {c : Command} (hc : c = .pushk ∨ c = .pushd ∨ c = .start) (p : Phase) :
    accepts c p = (p == .idle) := by
  rcases hc with rfl | rfl | rfl <;> rfl

theorem exec_pushk_of_idle {s : State} (hp : s.PHASE = .idle) (b : Byte) :
    exec (.pushk b) s = .next (s.pushKey b) :=
  congrArg Host.Outcome.next (State.command_of_accepts _ (by simp [accepts, hp]))

theorem exec_pushd_of_idle {s : State} (hp : s.PHASE = .idle) (b : Byte) :
    exec (.pushd b) s = .next (s.pushData b) :=
  congrArg Host.Outcome.next (State.command_of_accepts _ (by simp [accepts, hp]))

theorem exec_start_of_idle {s : State} (hp : s.PHASE = .idle) : exec .start s = .next s.startCall :=
  congrArg Host.Outcome.next (State.command_of_accepts _ (by simp [accepts, hp]))

theorem exec_clr_of_busy {s : State} (hp : s.PHASE = .expand ∨ s.PHASE = .round) :
    exec .clr s = .next (s.respond .refused 0) := by
  have href : accepts .clr s.PHASE = false := by rcases hp with hp | hp <;> rw [hp] <;> rfl
  exact congrArg Host.Outcome.next (State.command_of_not_accepts _ href)

/-- PUSHK, PUSHD and START outside IDLE. -/
theorem exec_of_not_idle {s : State} {i : Instr} (hi : i = .start ∨ (∃ b, i = .pushk b) ∨ ∃ b, i = .pushd b)
    (hp : s.PHASE ≠ .idle) : exec i s = .next (s.respond .refused 0) := by
  have href (c : Command) (hc : c = .pushk ∨ c = .pushd ∨ c = .start) : accepts c s.PHASE = false := by
    rw [accepts_eq_idle hc, beq_eq_false_iff_ne]
    exact hp
  rcases hi with rfl | ⟨b, rfl⟩ | ⟨b, rfl⟩
  · exact congrArg Host.Outcome.next (State.command_of_not_accepts _ (href .start (.inr (.inr rfl))))
  · exact congrArg Host.Outcome.next (State.command_of_not_accepts _ (href .pushk (.inl rfl)))
  · exact congrArg Host.Outcome.next (State.command_of_not_accepts _ (href .pushd (.inr (.inl rfl))))

/-- Settles O20: CLR while busy, the three commands of IDLE elsewhere, RDOUT outside DONE. -/
theorem refusedCommandsChangeNothing : Obligations.RefusedCommandsChangeNothing := by
  rintro s i (⟨rfl, hp⟩ | ⟨hi, hp⟩ | ⟨⟨j, rfl⟩, hp⟩)
  · exact exec_clr_of_busy hp
  · exact exec_of_not_idle hi hp
  · exact exec_rdout_of_ne_done hp j

/-- Settles O13: `exec_clr_of_quiet` and `exec_clr_of_busy`. -/
theorem clrEndsTheCallUnlessBusy : Obligations.ClrEndsTheCallUnlessBusy := fun _ =>
  ⟨exec_clr_of_quiet, exec_clr_of_busy⟩

/-! ### NOP, RDST and illegal words (R151, R156, R158) -/

/-- The data byte is the value of an OK response (R73, R74). -/
theorem toNat_rspWord_ok (d : Byte) : (rspWord .ok d).toNat = d.toNat := by
  rw [rspWord, toNat_append_add, show (RspCode.ok.bits ++ 0#4).toNat = 0 from rfl, Nat.zero_mul, Nat.zero_add]

/-- The status byte as a number: the two fields of R33. -/
theorem State.toNat_status (s : State) : s.status.toNat = (errCode s.ERR).toNat * 8 + s.PHASE.code.toNat := by
  rw [State.status, toNat_append_add, toNat_append_add]
  simp

/-- Settles O11: the word 0x00dd has operation 0, and its operand byte is not 0. -/
theorem nopAnswersOkAndChangesNothing : Obligations.NopAnswersOkAndChangesNothing := by
  refine ⟨rfl, fun _ => rfl, fun dd hdd => congrArg Except.ok ((decodeCmd_eq_illegal_iff _).mpr ?_)⟩
  have hword : (0x00#8 ++ dd).toNat = dd.toNat := (toNat_append_add 0x00#8 dd).trans (by simp)
  have hne : dd.toNat ≠ 0 := fun h => hdd (BitVec.eq_of_toNat_eq h)
  have hlt := dd.isLt
  unfold InIllegalList
  omega

/-- Settles O12: RDST answers OK with the status byte, whose two fields are the codes of `ERR` and `PHASE`. -/
theorem rdstAnswersStatus : Obligations.RdstAnswersStatus := by
  intro s
  refine ⟨rspWord .ok s.status, rfl, ?_⟩
  rw [toNat_rspWord_ok, s.toNat_status]
  congr 1
  · rcases s.ERR with _ | _ | _ <;> rfl
  · cases s.PHASE <;> rfl

/-- Settles O19: the decoder's ILLEGAL row is R76's list, and its meaning is the one response. -/
theorem illegalWordChangesNothing : Obligations.IllegalWordChangesNothing := by
  refine ⟨fun _ _ => rfl, fun s c es hin hill hseq => ?_, by decide, by decide, by decide, by decide⟩
  have hdec : decodeCmd c = .illegal c := (decodeCmd_eq_illegal_iff c).mpr ((illegalWord_iff c).mp hill)
  rw [step_cmd s c es hin (s.seqReachable_iff.mpr hseq), hdec]
  rfl

/-! ### PUSHK and PUSHD (R153, R154) -/

/-- The entries of a byte buffer after a push: the byte stands at the counter's index, if there is room. -/
theorem getElem_push {n : Nat} (buf : Vector Byte n) (i : Nat) (b : Byte) {j : Nat} (hj : j < n) :
    (if h : i < n then buf.set i b else buf)[j] = if j = i then b else buf[j] := by
  by_cases h : i < n
  · rw [dif_pos h, Vector.getElem_set]
    simp only [eq_comm]
  · rw [dif_neg h, if_neg (by omega)]

/-- Settles O14: `pushKey` in IDLE, entry by entry `getElem_push`; elsewhere the refusal. -/
theorem pushkStoresAndCounts : Obligations.PushkStoresAndCounts := fun s b =>
  ⟨fun hp => ⟨(s.pushKey b).KB, exec_pushk_of_idle hp b, fun _ hj => getElem_push s.KB s.KLEN b hj⟩,
    exec_of_not_idle (.inr (.inl ⟨b, rfl⟩))⟩

/-- Settles O15: `pushData` in IDLE, entry by entry `getElem_push`; elsewhere the refusal. -/
theorem pushdStoresAndCounts : Obligations.PushdStoresAndCounts := fun s b =>
  ⟨fun hp => ⟨(s.pushData b).DB, exec_pushd_of_idle hp b, fun _ hj => getElem_push s.DB s.DLEN b hj⟩,
    exec_of_not_idle (.inr (.inr ⟨b, rfl⟩))⟩

/-! ### START (R155) -/

theorem State.startCall_of_lengths {s : State} (hk : s.KLEN = 64) (hd : s.DLEN = 32) : s.startCall = s.callLoaded := by
  simp [State.startCall, State.callLoaded, hk, hd]

theorem State.callLoaded_eq (s : State) : s.callLoaded = { s with
    W := keyLoaded s.KB s.W, S := ptWords s.DB, PHASE := .expand, IDX := 16, rsps := s.rsps ++ [0x0000#16] } := by
  have hok : rspWord .ok 0 = 0x0000#16 := rfl
  simp only [State.callLoaded, State.loadKey, State.loadData, State.setSeq, State.respond, hok]

/-- Settles O16: the load's words are `BE32` of four bytes of their buffer, as numbers `toNat_be32`. -/
theorem startLoadsKeyAndBlock : Obligations.StartLoadsKeyAndBlock := by
  intro s hp hk hd
  refine ⟨keyLoaded s.KB s.W, ptWords s.DB, ?_, fun i h => ?_, keyLoaded_high s.KB s.W, fun i h => ?_⟩
  · rw [exec_start_of_idle hp, State.startCall_of_lengths hk hd, State.callLoaded_eq]
  · rw [keyLoaded_low s.KB s.W i h]
    exact toNat_be32 _ _ _ _
  · rw [ptWords_getElem s.DB i h]
    exact toNat_be32 _ _ _ _

end Sys2Proof.Machine

/-! PROOFS. When a call's phases end (O42, O43): EXPAND and ROUND by their last turn, DONE and ERROR by CLR, and all of
them by a reset. -/

namespace Sys2Proof.Machine

/-- The only effect but a reset that leaves a busy phase is the turn at index 63: CLR is refused there, and the other
commands that change `SEQ` need IDLE. -/
theorem StepEffect.leaves_busy {e : Option Event} {u t : State} (h : StepEffect e u t) (he : e ≠ some .reset)
    (hb : u.busy = true) (hne : t.PHASE ≠ u.PHASE) :
    u.IDX = 63 ∧ (e = none ∨ e = some .tick) ∧
      ((u.PHASE = .expand ∧ t.PHASE = .round) ∨ (u.PHASE = .round ∧ t.PHASE = .done)) := by
  rw [State.busy_iff] at hb
  cases h with
  | reset hreset => exact absurd hreset he
  | clr _ hacc => rcases hb with hp | hp <;> simp [hp, accepts] at hacc
  | pushKey _ _ hp | pushData _ _ hp | raise _ _ hp _ | load _ hp _ _ => simp [hp] at hb
  | derive _ hp _ _ | round _ hp _ => exact absurd hp.symm hne
  | deriveLast hturn hp h63 => exact ⟨h63, hturn, .inl ⟨hp, rfl⟩⟩
  | roundLast hturn hp h63 => exact ⟨h63, hturn, .inr ⟨hp, rfl⟩⟩
  | answer | quiet => exact absurd rfl hne

/-- Settles O42: `StepEffect.leaves_busy`, where no event waiting means that the list is empty. -/
theorem busyPhasesEndOnlyByCompletionOrReset : Obligations.BusyPhasesEndOnlyByCompletionOrReset := by
  intro s t h hne
  have hleave (he : s.inputs.head? ≠ some .reset) (hb : s.busy = true) := (step_effect h).leaves_busy he hb hne
  refine ⟨fun hp he => ?_, fun hp he => ?_⟩
  · obtain ⟨h63, hturn, ⟨-, hround⟩ | ⟨hp', -⟩⟩ := hleave he (s.busy_iff.mpr (.inl hp))
    · exact ⟨h63, hround, hturn.imp_left List.head?_eq_none_iff.mp⟩
    · cases hp.symm.trans hp'
  · obtain ⟨h63, hturn, ⟨hp', -⟩ | ⟨-, hdone⟩⟩ := hleave he (s.busy_iff.mpr (.inr hp))
    · cases hp.symm.trans hp'
    · exact ⟨h63, hdone, hturn.imp_left List.head?_eq_none_iff.mp⟩

/-- In DONE and ERROR no command but CLR is more than answered, and the sequencer has no step. -/
theorem StepEffect.keeps_call_end {e : Option Event} {u t : State} (h : StepEffect e u t)
    (hp : u.PHASE = .done ∨ u.PHASE = .error) (hreset : e ≠ some .reset) (hclr : e ≠ some (.cmd 0x1000#16)) :
    ∃ rs, t = { u with rsps := rs } := by
  cases h with
  | reset he => exact absurd he hreset
  | clr he _ => exact absurd he hclr
  | answer => exact ⟨_, rfl⟩
  | quiet => exact ⟨u.rsps, rfl⟩
  | pushKey _ _ hq | pushData _ _ hq | raise _ _ hq _ | load _ hq _ _ | derive _ hq _ _ | deriveLast _ hq _
  | round _ hq _ | roundLast _ hq _ => simp [hq] at hp

/-- Settles O43: a reset and CLR by their meanings, every other step by `StepEffect.keeps_call_end`. -/
theorem callEndsAreStableUntilClrOrReset : Obligations.CallEndsAreStableUntilClrOrReset := by
  intro s t hp h
  split
  · next hend =>
    rcases step_cases h with ⟨es, -, rfl⟩ | ⟨c, es, hin, -, hexec⟩ | ⟨hin | ⟨es, hin⟩, -⟩
    · exact ⟨rfl, rfl, rfl, rfl, rfl⟩
    · obtain rfl : c = 0x1000#16 := by simpa [hin] using hend
      have hclr : exec .clr (s.withInputs es) = .next t := hexec
      obtain rfl := Host.Outcome.next.inj ((exec_clr_of_quiet (s := s.withInputs es) (.inr hp)).symm.trans hclr)
      exact ⟨rfl, rfl, rfl, rfl, rfl⟩
    · simp [hin] at hend
    · simp [hin] at hend
  · next hstay =>
    obtain ⟨hreset, hclr⟩ := not_or.mp hstay
    obtain ⟨rs, rfl⟩ := (step_effect h).keeps_call_end hp hreset hclr
    exact ⟨rfl, rfl, rfl, rfl, rfl, rfl, rfl, rfl, rfl⟩

end Sys2Proof.Machine

/-! PROOFS. The call contract (O51): the sequence of a call as runs one after the other, CLR, the pushes, START, the
WAIT and the block read, and the three ways a call can end. -/

namespace Sys2Proof.Machine

/-! ### Runs over a list of events -/

/-- The state with these events still to happen and these responses given. -/
def State.withLists (s : State) (es : List Event) (rs : List RspWord) : State := { s with inputs := es, rsps := rs }

/-- A list of events of one kind, each of which takes a state with `P` to one with `P`, is a run of that many steps. -/
theorem runs_foldl {α : Type} {ev : α → Event} {act : State → α → State} {P : State → Prop}
    (hstep : ∀ s a rest, P s → step (s.withInputs (ev a :: rest)) = .next ((act s a).withInputs rest))
    (hP : ∀ s a, P s → P (act s a)) (l : List α) (rest : List Event) {s : State} (hs : P s) :
    Runs l.length (s.withInputs (l.map ev ++ rest)) ((l.foldl act s).withInputs rest) := by
  induction l generalizing s with
  | nil => exact Runs.zero _
  | cons a l ih => exact Runs.succ (hstep s a _ hs) (ih (hP s a hs))

/-- The phase and the index between two commands of a call, where the sequencer is quiet. -/
def State.RestsIn (p : Phase) (s : State) : Prop := s.PHASE = p ∧ s.IDX = 0

theorem step_cmd_of_quiet {s : State} (hp : s.PHASE = .idle ∨ s.PHASE = .done ∨ s.PHASE = .error) (hi : s.IDX = 0)
    (c : CmdWord) (rest : List Event) :
    step (s.withInputs (.cmd c :: rest)) = exec (decodeCmd c) (s.withInputs rest) :=
  step_cmd (s.withInputs (.cmd c :: rest)) c rest rfl (State.seqReachable_of_quiet (s := s) hp hi)

/-! ### The pushes (R81, R153, R154) -/

/-- The first entries of a byte buffer are these bytes. -/
def HoldsBytes {n : Nat} (buf : Vector Byte n) (bs : List Byte) : Prop :=
  ∀ (j : Nat) (hj : j < n) (hb : j < bs.length), buf[j] = bs[j]

theorem HoldsBytes.nil {n : Nat} (buf : Vector Byte n) : HoldsBytes buf [] :=
  fun _ _ hb => absurd hb (Nat.not_lt_zero _)

/-- A push at the count of the bytes pushed so far, which saturates one past the size of the buffer. -/
theorem HoldsBytes.push {n : Nat} {buf : Vector Byte n} {bs : List Byte} (h : HoldsBytes buf bs) (b : Byte) :
    HoldsBytes (if hi : min bs.length (n + 1) < n then buf.set (min bs.length (n + 1)) b else buf) (bs ++ [b]) := by
  intro j hj hb
  rw [List.length_append, List.length_singleton] at hb
  rw [getElem_push]
  by_cases hlast : j = bs.length
  · rw [if_pos (by omega)]
    simp [hlast]
  · rw [if_neg (by omega), List.getElem_append_left (by omega)]
    exact h j hj (by omega)

theorem HoldsBytes.eq_of_toList {n : Nat} {buf v : Vector Byte n} (h : HoldsBytes buf v.toList) : buf = v :=
  Vector.ext fun j hj => (h j hj (by simpa using hj)).trans (by simp)

/-- The state after `m` key bytes were pushed from an empty count, with these in the buffer. -/
def State.keyPushed (s : State) (kb : Vector Byte 64) (m : Nat) : State :=
  { s with KB := kb, KLEN := min m 65, rsps := s.rsps ++ List.replicate m 0x0000#16 }

/-- The state after `n` data bytes were pushed from an empty count, with these in the buffer. -/
def State.dataPushed (s : State) (db : Vector Byte 32) (n : Nat) : State :=
  { s with DB := db, DLEN := min n 33, rsps := s.rsps ++ List.replicate n 0x0000#16 }

theorem State.keyPushed_pushKey (s : State) (kb : Vector Byte 64) (m : Nat) (b : Byte) :
    (s.keyPushed kb m).pushKey b = s.keyPushed (if h : min m 65 < 64 then kb.set (min m 65) b else kb) (m + 1) := by
  have hcount : min (min m 65 + 1) 65 = min (m + 1) 65 := by omega
  have hok : rspWord .ok 0 = 0x0000#16 := rfl
  simp only [State.keyPushed, State.pushKey, State.respond, hcount, hok, List.replicate_succ', List.append_assoc]
  rfl

theorem State.dataPushed_pushData (s : State) (db : Vector Byte 32) (n : Nat) (b : Byte) :
    (s.dataPushed db n).pushData b = s.dataPushed (if h : min n 33 < 32 then db.set (min n 33) b else db) (n + 1) := by
  have hcount : min (min n 33 + 1) 33 = min (n + 1) 33 := by omega
  have hok : rspWord .ok 0 = 0x0000#16 := rfl
  simp only [State.dataPushed, State.pushData, State.respond, hcount, hok, List.replicate_succ', List.append_assoc]
  rfl

theorem State.keyPushed_zero {s : State} (hk : s.KLEN = 0) : s.keyPushed s.KB 0 = s := by
  cases s
  cases hk
  simp [State.keyPushed]

theorem State.dataPushed_zero {s : State} (hd : s.DLEN = 0) : s.dataPushed s.DB 0 = s := by
  cases s
  cases hd
  simp [State.dataPushed]

theorem foldl_pushKey {s : State} (hk : s.KLEN = 0) (key : List Byte) :
    ∃ kb, HoldsBytes kb key ∧ key.foldl State.pushKey s = s.keyPushed kb key.length := by
  induction key using List.reverseRecOn with
  | nil => exact ⟨s.KB, .nil _, (State.keyPushed_zero hk).symm⟩
  | append_singleton key b ih =>
    obtain ⟨kb, hkb, hfold⟩ := ih
    refine ⟨_, hkb.push b, ?_⟩
    rw [List.foldl_concat, hfold, State.keyPushed_pushKey, List.length_append, List.length_singleton]

theorem foldl_pushData {s : State} (hd : s.DLEN = 0) (data : List Byte) :
    ∃ db, HoldsBytes db data ∧ data.foldl State.pushData s = s.dataPushed db data.length := by
  induction data using List.reverseRecOn with
  | nil => exact ⟨s.DB, .nil _, (State.dataPushed_zero hd).symm⟩
  | append_singleton data b ih =>
    obtain ⟨db, hdb, hfold⟩ := ih
    refine ⟨_, hdb.push b, ?_⟩
    rw [List.foldl_concat, hfold, State.dataPushed_pushData, List.length_append, List.length_singleton]

theorem loadK_eq_map (key : List Byte) : loadK key = key.map fun b => .cmd (0x20#8 ++ b) := by
  induction key with
  | nil => rfl
  | cons b key ih => rw [loadK_cons, ih, List.map_cons]

theorem loadD_eq_map (data : List Byte) : loadD data = data.map fun b => .cmd (0x30#8 ++ b) := by
  induction data with
  | nil => rfl
  | cons b data ih => rw [loadD_cons, ih, List.map_cons]

/-- `LOADK` in IDLE from an empty count. -/
theorem runs_loadK {s : State} (hs : s.RestsIn .idle) (hk : s.KLEN = 0) (key : List Byte) : ∃ kb, HoldsBytes kb key ∧
    ∀ rest, Runs key.length (s.withInputs (loadK key ++ rest)) ((s.keyPushed kb key.length).withInputs rest) := by
  obtain ⟨kb, hkb, hfold⟩ := foldl_pushKey hk key
  refine ⟨kb, hkb, fun rest => ?_⟩
  rw [loadK_eq_map, ← hfold]
  refine runs_foldl (act := State.pushKey) (P := State.RestsIn .idle) (fun s b rest hs => ?_) (fun _ _ hs => hs) key
    rest hs
  rw [step_cmd_of_quiet (.inl hs.1) hs.2, decodeCmd_pushk]
  exact exec_pushk_of_idle (s := s.withInputs rest) hs.1 b

/-- `LOADD` in IDLE from an empty count. -/
theorem runs_loadD {s : State} (hs : s.RestsIn .idle) (hd : s.DLEN = 0) (data : List Byte) :
    ∃ db, HoldsBytes db data ∧
    ∀ rest, Runs data.length (s.withInputs (loadD data ++ rest)) ((s.dataPushed db data.length).withInputs rest) := by
  obtain ⟨db, hdb, hfold⟩ := foldl_pushData hd data
  refine ⟨db, hdb, fun rest => ?_⟩
  rw [loadD_eq_map, ← hfold]
  refine runs_foldl (act := State.pushData) (P := State.RestsIn .idle) (fun s b rest hs => ?_) (fun _ _ hs => hs) data
    rest hs
  rw [step_cmd_of_quiet (.inl hs.1) hs.2, decodeCmd_pushd]
  exact exec_pushd_of_idle (s := s.withInputs rest) hs.1 b

/-- What CLR and the pushes of a call leave of `s`, for `m` key bytes and `n` data bytes. -/
def State.callPushed (s : State) (kb : Vector Byte 64) (db : Vector Byte 32) (m n : Nat) : State :=
  (s.endCall.keyPushed kb m).dataPushed db n

theorem State.callPushed_rsps (s : State) (kb : Vector Byte 64) (db : Vector Byte 32) (m n : Nat) :
    (s.callPushed kb db m n).rsps = s.rsps ++ List.replicate (1 + m + n) 0x0000#16 := by
  show s.rsps ++ List.replicate 1 0x0000#16 ++ List.replicate m 0x0000#16 ++ List.replicate n 0x0000#16 = _
  rw [List.append_assoc, List.append_assoc, List.replicate_append_replicate, List.replicate_append_replicate,
    Nat.add_assoc]

theorem State.callPushed_KLEN_iff (s : State) (kb : Vector Byte 64) (db : Vector Byte 32) (m n : Nat) :
    (s.callPushed kb db m n).KLEN = 64 ↔ m = 64 := by
  show min m 65 = 64 ↔ m = 64
  omega

theorem State.callPushed_DLEN_iff (s : State) (kb : Vector Byte 64) (db : Vector Byte 32) (m n : Nat) :
    (s.callPushed kb db m n).DLEN = 32 ↔ n = 32 := by
  show min n 33 = 32 ↔ n = 32
  omega

/-- `CLR; LOADK key; LOADD data` from a quiet phase. -/
theorem runs_pushes {s : State} (hp : s.PHASE = .idle ∨ s.PHASE = .done ∨ s.PHASE = .error) (hi : s.IDX = 0)
    (key data : List Byte) : ∃ kb db, HoldsBytes kb key ∧ HoldsBytes db data ∧ ∀ rest,
      Runs (1 + key.length + data.length) (s.withInputs (.cmd 0x1000#16 :: (loadK key ++ (loadD data ++ rest))))
        ((s.callPushed kb db key.length data.length).withInputs rest) := by
  obtain ⟨kb, hkb, hkey⟩ := runs_loadK (s := s.endCall) ⟨rfl, rfl⟩ rfl key
  obtain ⟨db, hdb, hdata⟩ := runs_loadD (s := s.endCall.keyPushed kb key.length) ⟨rfl, rfl⟩ rfl data
  refine ⟨kb, db, hkb, hdb, fun rest => ?_⟩
  have hclr (es : List Event) : step (s.withInputs (.cmd 0x1000#16 :: es)) = .next (s.endCall.withInputs es) :=
    (step_cmd_of_quiet hp hi 0x1000#16 es).trans (exec_clr_of_quiet (s := s.withInputs es) hp)
  exact ((Runs.succ (hclr _) (Runs.zero _)).trans (hkey _)).trans (hdata rest)

/-! ### The WAIT (R81, R160) -/

/-- `f n` is the core after `n` turns of the sequencer, from a reachable state: a turn takes it to `f (n + 1)`, whatever
is still to happen and was answered before. -/
def IsTurns (f : Nat → State) : Prop :=
  ∀ n, (f n).seqReachable = true ∧
    ∀ es rs, step ((f n).withLists (.tick :: es) rs) = .next ((f (n + 1)).withLists es rs)

/-- A core in a quiet phase stays as it is. -/
theorem isTurns_const {s : State} (hp : s.PHASE = .idle ∨ s.PHASE = .done ∨ s.PHASE = .error) (hi : s.IDX = 0) :
    IsTurns fun _ => s := fun _ =>
  ⟨State.seqReachable_of_quiet hp hi, fun es rs => step_turn_of_quiet (s := s.withLists _ rs) hp hi (.inr ⟨es, rfl⟩)⟩

theorem State.afterTurns_of_112 (s : State) (es : List Event) (rs : List RspWord) :
    (s.afterTurns 112 es rs).RestsIn .done := ⟨rfl, rfl⟩

/-- A started call counts 112 turns and is then DONE. -/
theorem isTurns_afterTurns (s : State) : IsTurns fun n => s.afterTurns (min n 112) s.inputs s.rsps := by
  intro n
  rcases Nat.lt_or_ge n 112 with hn | hn
  · have hnext : min (n + 1) 112 = n + 1 := Nat.min_eq_left hn
    simp only [Nat.min_eq_left hn.le, hnext]
    exact ⟨s.afterTurns_seqReachable hn _ _, s.step_afterTurns_tick hn⟩
  · have hnext : min (n + 1) 112 = 112 := Nat.min_eq_right (by omega)
    simp only [Nat.min_eq_right hn, hnext]
    obtain ⟨hp, hi⟩ := s.afterTurns_of_112 s.inputs s.rsps
    exact isTurns_const (.inr (.inl hp)) hi 0

/-- RDST at a reachable sequencer word. -/
theorem step_rdst {s : State} (hr : s.seqReachable = true) (es : List Event) (rs : List RspWord) :
    step (s.withLists (.cmd 0x5000#16 :: es) rs) = .next (s.withLists es (rs ++ [rspWord .ok s.status])) :=
  step_cmd (s.withLists _ rs) 0x5000#16 es rfl hr

/-- A WAIT takes its turns, and answers each RDST with the status byte of its moment. -/
theorem IsTurns.runs_wait {f : Nat → State} (hf : IsTurns f) {wait : List Event}
    (hwait : ∀ e ∈ wait, isWaitEvent e = true) (n : Nat) (rest : List Event) (rs : List RspWord) :
    ∃ polls, Runs wait.length ((f n).withLists (wait ++ rest) rs)
        ((f (n + wait.count .tick)).withLists rest (rs ++ polls)) ∧
      polls.length = wait.count (.cmd 0x5000#16) ∧ ∀ r ∈ polls, ∃ m, r = rspWord .ok (f m).status := by
  induction wait generalizing n rs with
  | nil => exact ⟨[], by simpa using Runs.zero _, rfl, by simp⟩
  | cons e wait ih =>
    obtain ⟨he, htail⟩ := List.forall_mem_cons.mp hwait
    obtain ⟨hreach, hturn⟩ := hf n
    have hkind : e = .tick ∨ e = .cmd 0x5000#16 := by simpa [isWaitEvent] using he
    rcases hkind with rfl | rfl
    · obtain ⟨polls, hruns, hlen, hpolls⟩ := ih htail (n + 1) rs
      refine ⟨polls, ?_, by rw [List.count_cons_of_ne (by decide), hlen], hpolls⟩
      rw [List.count_cons_self, ← Nat.add_assoc, Nat.add_right_comm]
      exact Runs.succ (hturn _ rs) hruns
    · obtain ⟨polls, hruns, hlen, hpolls⟩ := ih htail n (rs ++ [rspWord .ok (f n).status])
      refine ⟨rspWord .ok (f n).status :: polls, ?_, by rw [List.count_cons_self, List.length_cons, hlen],
        List.forall_mem_cons.mpr ⟨⟨n, rfl⟩, hpolls⟩⟩
      rw [List.count_cons_of_ne (by decide), List.append_cons]
      exact Runs.succ (step_rdst hreach _ rs) hruns

/-! ### The block read (R81, R157) -/

/-- The answer of RDOUT `j`, in any phase. -/
def State.rdoutAnswer (s : State) (j : Fin 32) : RspWord :=
  if s.PHASE = .done then rspWord .ok (outByte s.S j) else rspWord .refused 0

theorem exec_rdout (s : State) (j : Fin 32) :
    exec (.rdout (BitVec.ofFin j)) s = .next (s.withLists s.inputs (s.rsps ++ [s.rdoutAnswer j])) := by
  unfold State.rdoutAnswer
  by_cases hp : s.PHASE = .done
  · rw [exec_rdout_of_done hp, if_pos hp]
    rfl
  · rw [exec_rdout_of_ne_done hp, if_neg hp]
    rfl

theorem foldl_rdoutAnswer (s : State) (l : List (Fin 32)) :
    l.foldl (fun s j => s.withLists s.inputs (s.rsps ++ [s.rdoutAnswer j])) s =
      s.withLists s.inputs (s.rsps ++ l.map s.rdoutAnswer) := by
  induction l generalizing s with
  | nil => simp [State.withLists]
  | cons j l ih =>
    rw [List.foldl_cons, ih, List.map_cons, List.append_cons s.rsps _ (l.map _)]
    rfl

theorem readBlk_eq_map :
    readBlk = (List.finRange 32).map fun j => .cmd (0x300#11 ++ (BitVec.ofFin j : BitVec 5)) :=
  List.flatMap_pure_eq_map _ _

/-- The 32 answers of `READBLK`: the ciphertext in DONE, refusals elsewhere. -/
def State.blockAnswers (s : State) : List RspWord := (List.finRange 32).map s.rdoutAnswer

theorem State.blockAnswers_of_done {s : State} (hp : s.PHASE = .done) :
    s.blockAnswers = (outBytes s.S).toList.map fun b => 0x00#8 ++ b := by
  rw [outBytes, Vector.toList_ofFn, List.ofFn_eq_map, List.map_map]
  exact List.map_congr_left fun j _ => if_pos hp

theorem State.blockAnswers_of_ne_done {s : State} (hp : s.PHASE ≠ .done) :
    s.blockAnswers = List.replicate 32 0x1000#16 := by
  have hrefused : s.rdoutAnswer = fun _ => 0x1000#16 := funext fun _ => if_neg hp
  rw [State.blockAnswers, hrefused, List.map_const', List.length_finRange]

/-- `READBLK` in a quiet phase. -/
theorem runs_readBlk {s : State} (hp : s.PHASE = .idle ∨ s.PHASE = .done ∨ s.PHASE = .error) (hi : s.IDX = 0)
    (rs : List RspWord) :
    Runs 32 (s.withLists readBlk rs) (s.withLists [] (rs ++ s.blockAnswers)) := by
  have hruns := runs_foldl (ev := fun j : Fin 32 => .cmd (0x300#11 ++ (BitVec.ofFin j : BitVec 5)))
    (act := fun s j => s.withLists s.inputs (s.rsps ++ [s.rdoutAnswer j])) (P := State.RestsIn s.PHASE)
    (fun u j rest hu => by
      rw [step_cmd_of_quiet (hu.1 ▸ hp) hu.2, decodeCmd_rdout, exec_rdout]
      rfl)
    (fun _ _ hu => hu) (List.finRange 32) [] (s := s.withLists [] rs) ⟨rfl, hi⟩
  rw [foldl_rdoutAnswer, List.length_finRange, List.append_nil, ← readBlk_eq_map] at hruns
  exact hruns

/-! ### START and what follows it (R155, R163) -/

theorem State.startCall_of_key_length {s : State} (hk : s.KLEN ≠ 64) : s.startCall = s.raise .invalidKeyLength :=
  if_pos hk

theorem State.startCall_of_data_length {s : State} (hk : s.KLEN = 64) (hd : s.DLEN ≠ 32) :
    s.startCall = s.raise .invalidDataLength := by
  simp [State.startCall, hk, hd]

/-- START in IDLE, with the events after it set aside. -/
theorem step_start {s : State} (hs : s.RestsIn .idle) (rest : List Event) :
    step (s.withInputs (.cmd 0x4000#16 :: rest)) = .next (s.withInputs rest).startCall :=
  (step_cmd_of_quiet (.inl hs.1) hs.2 0x4000#16 rest).trans (exec_start_of_idle (s := s.withInputs rest) hs.1)

theorem encryptCall_eq (key data : List Byte) (wait : List Event) : encryptCall key data wait =
    .cmd 0x1000#16 :: (loadK key ++ (loadD data ++ (.cmd 0x4000#16 :: (wait ++ readBlk)))) := by
  simp [encryptCall]

theorem encryptCall_length (key data : List Byte) (wait : List Event) :
    (encryptCall key data wait).length = 1 + key.length + data.length + (wait.length + 32 + 1) := by
  simp only [encryptCall_eq, List.length_cons, List.length_append, loadK_length, loadD_length, readBlk_length]
  omega

/-- A call up to its end in DONE or ERROR, whatever START answers and the turns of the WAIT do. -/
theorem runs_call {s : State} {key data : List Byte} {wait : List Event}
    (hp : s.PHASE = .idle ∨ s.PHASE = .done ∨ s.PHASE = .error) (hi : s.IDX = 0)
    (hwait : ∀ e ∈ wait, isWaitEvent e = true) (hin : s.inputs = encryptCall key data wait) :
    ∃ kb db, HoldsBytes kb key ∧ HoldsBytes db data ∧ ∀ (f : Nat → State) (start : RspWord), IsTurns f →
      (∀ rest, ((s.callPushed kb db key.length data.length).withInputs rest).startCall =
        (f 0).withLists rest ((s.callPushed kb db key.length data.length).rsps ++ [start])) →
      (f (wait.count .tick)).RestsIn .done ∨ (f (wait.count .tick)).RestsIn .error →
      ∃ polls, Runs (encryptCall key data wait).length s
          ((f (wait.count .tick)).withLists [] (s.rsps ++ List.replicate (1 + key.length + data.length) 0x0000#16 ++
            [start] ++ polls ++ (f (wait.count .tick)).blockAnswers)) ∧
        polls.length = wait.count (.cmd 0x5000#16) ∧ ∀ r ∈ polls, ∃ m, r = rspWord .ok (f m).status := by
  obtain ⟨kb, db, hkb, hdb, hpushes⟩ := runs_pushes hp hi key data
  refine ⟨kb, db, hkb, hdb, fun f start hf hstart hend => ?_⟩
  obtain ⟨polls, hpolled, hlen, hpolls⟩ := hf.runs_wait hwait 0 readBlk
    ((s.callPushed kb db key.length data.length).rsps ++ [start])
  rw [Nat.zero_add] at hpolled
  have hread := runs_readBlk (.inr (hend.imp And.left And.left)) (hend.elim And.right And.right)
    ((s.callPushed kb db key.length data.length).rsps ++ [start] ++ polls)
  have hstep := step_start (s := s.callPushed kb db key.length data.length) ⟨rfl, rfl⟩ (wait ++ readBlk)
  rw [hstart] at hstep
  have hruns := (hpushes _).trans (Runs.succ hstep (hpolled.trans hread))
  rw [State.callPushed_rsps] at hruns
  have hself : s.withInputs (encryptCall key data wait) = s := hin ▸ rfl
  refine ⟨polls, ?_, hlen, hpolls⟩
  rw [encryptCall_length]
  rw [← encryptCall_eq, hself] at hruns
  exact hruns

/-! ### The three ends of a call (R163) -/

theorem State.callLoaded_withInputs (s : State) (es : List Event) :
    (s.withInputs es).callLoaded = s.callLoaded.withLists es (s.rsps ++ [0x0000#16]) := by
  rw [State.callLoaded_eq, State.callLoaded_eq]
  rfl

/-- Every status byte of a started call is one of the three phases it goes through, without an error (R33). -/
theorem State.status_afterTurns {s : State} (herr : s.ERR = none) (n : Nat) (es : List Event) (rs : List RspWord) :
    rspWord .ok (s.afterTurns n es rs).status = 0x0001#16 ∨ rspWord .ok (s.afterTurns n es rs).status = 0x0002#16 ∨
      rspWord .ok (s.afterTurns n es rs).status = 0x0003#16 := by
  have hstatus : (s.afterTurns n es rs).status = 0#3 ++ errCode none ++ (phaseAfter n).code := by
    rw [← herr]
    rfl
  rw [hstatus, phaseAfter]
  split
  · exact .inl rfl
  split
  · exact .inr (.inl rfl)
  · exact .inr (.inr rfl)

/-- The 112 turns after the load leave the ciphertext of the two buffers (R136, R139). -/
theorem State.outBytes_afterTurns_callLoaded (s : State) (es : List Event) (rs : List RspWord) :
    outBytes (s.callLoaded.afterTurns 112 es rs).S = encryptB s.K s.KB s.DB := by
  have hS : (s.callLoaded.afterTurns 112 es rs).S =
      roundsFrom s.callLoaded.K (expandFrom s.callLoaded.W 48) s.callLoaded.S 64 := rfl
  rw [hS, State.callLoaded_eq, expandFrom_keyLoaded, encryptB, encryptW]

theorem State.status_raise (s : State) (e : LengthError) :
    (s.raise e).status = 0#3 ++ errCode (some e) ++ Phase.error.code := rfl

/-- A call whose START raises `e` (R183): the refused block, and the polls that show the error. -/
theorem runs_failed_call {s : State} {key data : List Byte} {wait : List Event}
    (hp : s.PHASE = .idle ∨ s.PHASE = .done ∨ s.PHASE = .error) (hi : s.IDX = 0)
    (hwait : ∀ e ∈ wait, isWaitEvent e = true) (hin : s.inputs = encryptCall key data wait) {e : LengthError}
    (hraise : ∀ u : State, (u.KLEN = 64 ↔ key.length = 64) → (u.DLEN = 32 ↔ data.length = 32) →
      u.startCall = u.raise e) :
    ∃ t polls, Runs (encryptCall key data wait).length s t ∧
      t.rsps = s.rsps ++ List.replicate (1 + key.length + data.length) 0x0000#16 ++
        [rspWord .lenerr (e.code.setWidth 8)] ++ polls ++ List.replicate 32 0x1000#16 ∧
      polls.length = wait.count (.cmd 0x5000#16) ∧
      (∀ r ∈ polls, r = rspWord .ok (0#3 ++ errCode (some e) ++ Phase.error.code)) ∧
      t.PHASE = .error ∧ t.ERR = some e ∧ t.W = s.W ∧ t.S = s.S := by
  obtain ⟨kb, db, -, -, hcall⟩ := runs_call hp hi hwait hin
  have hstart (rest : List Event) := hraise ((s.callPushed kb db key.length data.length).withInputs rest)
    (s.callPushed_KLEN_iff kb db key.length data.length) (s.callPushed_DLEN_iff kb db key.length data.length)
  obtain ⟨polls, hruns, hlen, hpolls⟩ := hcall (fun _ => (s.callPushed kb db key.length data.length).raise e) _
    (isTurns_const (.inr (.inr rfl)) rfl) hstart (.inr ⟨rfl, rfl⟩)
  rw [State.blockAnswers_of_ne_done (by simp)] at hruns
  refine ⟨_, polls, hruns, rfl, hlen, fun r hr => ?_, rfl, rfl, rfl, rfl⟩
  obtain ⟨-, rfl⟩ := hpolls r hr
  rw [State.status_raise]

/-- A call whose START is accepted (R139, R155): the polls show the three phases, and the block is the ciphertext. -/
theorem runs_good_call {s : State} {key : Vector Byte 64} {data : Vector Byte 32} {wait : List Event}
    (hp : s.PHASE = .idle ∨ s.PHASE = .done ∨ s.PHASE = .error) (hi : s.IDX = 0)
    (hwait : ∀ e ∈ wait, isWaitEvent e = true) (hturns : 112 ≤ wait.count .tick)
    (hin : s.inputs = encryptCall key.toList data.toList wait) :
    ∃ t polls, Runs (encryptCall key.toList data.toList wait).length s t ∧
      t.rsps = s.rsps ++ List.replicate (1 + key.toList.length + data.toList.length) 0x0000#16 ++ [0x0000#16] ++
        polls ++ (encryptB s.K key data).toList.map (fun b => 0x00#8 ++ b) ∧
      polls.length = wait.count (.cmd 0x5000#16) ∧
      (∀ r ∈ polls, r = 0x0001#16 ∨ r = 0x0002#16 ∨ r = 0x0003#16) ∧ t.PHASE = .done ∧ t.ERR = none := by
  obtain ⟨kb, db, hkb, hdb, hcall⟩ := runs_call hp hi hwait hin
  obtain rfl : kb = key := hkb.eq_of_toList
  obtain rfl : db = data := hdb.eq_of_toList
  have hk := (s.callPushed_KLEN_iff kb db kb.toList.length db.toList.length).mpr kb.length_toList
  have hd := (s.callPushed_DLEN_iff kb db kb.toList.length db.toList.length).mpr db.length_toList
  generalize hu : s.callPushed kb db kb.toList.length db.toList.length = u at hcall hk hd
  have hload (rest : List Event) : (u.withInputs rest).startCall =
      (u.callLoaded.afterTurns (min 0 112) u.callLoaded.inputs u.callLoaded.rsps).withLists rest
        (u.rsps ++ [0x0000#16]) := by
    rw [State.startCall_of_lengths (s := u.withInputs rest) hk hd, u.callLoaded_withInputs, Nat.zero_min,
      State.afterTurns_zero rfl rfl]
  obtain ⟨polls, hruns, hlen, hpolls⟩ := hcall _ 0x0000#16 (isTurns_afterTurns u.callLoaded) hload
    (.inl (by rw [Nat.min_eq_right hturns]; exact State.afterTurns_of_112 _ _ _))
  rw [Nat.min_eq_right hturns, State.blockAnswers_of_done (State.afterTurns_of_112 _ _ _).1,
    u.outBytes_afterTurns_callLoaded] at hruns
  subst hu
  refine ⟨_, polls, hruns, rfl, hlen, fun r hr => ?_, rfl, rfl⟩
  obtain ⟨m, rfl⟩ := hpolls r hr
  exact State.status_afterTurns rfl _ _ _

theorem exists_vector_of_length {α : Type} {n : Nat} {l : List α} (h : l.length = n) : ∃ v : Vector α n, l = v.toList :=
  ⟨⟨l.toArray, by simpa using h⟩, rfl⟩

/-- Settles O51, by what START finds: a wrong key length, a wrong data length, or a key and a block. -/
theorem callIsTheSourceFunction : Obligations.CallIsTheSourceFunction := by
  intro s key data wait hp hi hwait hturns hin
  by_cases hk : key.length = 64
  · by_cases hd : data.length = 32
    · obtain ⟨k, rfl⟩ := exists_vector_of_length hk
      obtain ⟨d, rfl⟩ := exists_vector_of_length hd
      obtain ⟨t, polls, hruns, hrsps, hlen, hpolls, hphase, herr⟩ := runs_good_call hp hi hwait (hturns hk hd) hin
      refine ⟨t, _, polls, _, hruns, hrsps, hlen, fun h => absurd hk h, fun _ h => absurd hd h, fun k' d' hk' hd' => ?_⟩
      obtain rfl : k = k' := Vector.toList_inj.mp hk'
      obtain rfl : d = d' := Vector.toList_inj.mp hd'
      exact ⟨rfl, hphase, herr, hpolls, rfl⟩
    · obtain ⟨t, polls, hruns, hrsps, hlen, hpolls, hend⟩ := runs_failed_call hp hi hwait hin
        fun u hklen hdlen => State.startCall_of_data_length (hklen.mpr hk) (hd ∘ hdlen.mp)
      obtain ⟨hphase, herr, hW, hS⟩ := hend
      exact ⟨t, _, polls, _, hruns, hrsps, hlen, fun h => absurd hk h,
        fun _ _ => ⟨rfl, hphase, herr, hW, hS, hpolls, rfl⟩, fun _ d _ hdata => absurd (hdata ▸ d.length_toList) hd⟩
  · obtain ⟨t, polls, hruns, hrsps, hlen, hpolls, hphase, herr, hW, hS⟩ := runs_failed_call hp hi hwait hin
      fun u hklen _ => State.startCall_of_key_length (hk ∘ hklen.mp)
    exact ⟨t, _, polls, _, hruns, hrsps, hlen, fun _ => ⟨rfl, hphase, herr, hW, hS, hpolls, rfl⟩,
      fun h => absurd h hk, fun k _ hkey _ => absurd (hkey ▸ k.length_toList) hk⟩

end Sys2Proof.Machine

/-! PROOFS. The exception (O17), and why the invariants leave no way to stop (O48). -/

namespace Sys2Proof.Machine

/-! ### The status byte (R33) -/

/-- The status byte of a call that ended in the exception (R183). -/
theorem State.status_of_error {s : State} {e : LengthError} (hp : s.PHASE = .error) (he : s.ERR = some e) :
    s.status = 0#3 ++ errCode (some e) ++ Phase.error.code := by
  rw [State.status, hp, he]

/-- The status byte outside ERROR is the phase, since no error is recorded there (R41 item 2). -/
theorem State.Inv.status_of_ne_error {s : State} (h : s.Inv) (hp : s.PHASE ≠ .error) :
    s.status = 0#3 ++ errCode none ++ s.PHASE.code := by
  rw [State.status, h.err_eq_none hp]

/-- R41 item 2, read in ERROR. -/
theorem State.Inv.exists_err {s : State} (h : s.Inv) (hp : s.PHASE = .error) : ∃ e, s.ERR = some e :=
  Option.ne_none_iff_exists'.mp (h.err.mpr hp)

/-- With the invariants `PHASE` and `ERR` combine in six ways only. -/
theorem State.Inv.status_cases {s : State} (h : s.Inv) :
    s.status = 0x00#8 ∨ s.status = 0x01#8 ∨ s.status = 0x02#8 ∨ s.status = 0x03#8 ∨ s.status = 0x0C#8 ∨
      s.status = 0x14#8 := by
  cases hp : s.PHASE with
  | error =>
    obtain ⟨e, he⟩ := h.exists_err hp
    rw [State.status_of_error hp he]
    cases e <;> decide
  | idle | expand | round | done =>
    rw [h.status_of_ne_error (by simp [hp]), hp]
    decide

/-! ### START's exception (R181 to R184) -/

/-- RDST in ERROR (R156, R183). -/
theorem exec_rdst_of_error {s : State} {e : LengthError} (hp : s.PHASE = .error) (he : s.ERR = some e) :
    exec .rdst s = .next (s.respond .ok (0#3 ++ errCode (some e) ++ Phase.error.code)) := by
  rw [← State.status_of_error hp he]
  rfl

/-- Settles O17: START in IDLE is `raise` of the length that is wrong, the key's first, and `raise` writes `ERR`, `SEQ`
and one response; elsewhere START is refused. -/
theorem startRaisesLengthError : Obligations.StartRaisesLengthError := by
  refine ⟨fun s hp hk => ?_, fun s hp hk hd => ?_, fun s hp => ?_, fun _ _ => rfl, fun s hp => ?_⟩
  · rw [exec_start_of_idle hp, State.startCall_of_key_length hk]
    rfl
  · rw [exec_start_of_idle hp, State.startCall_of_data_length hk hd]
    rfl
  · exact exec_of_not_idle (.inl rfl) hp
  · exact ⟨exec_rdst_of_error hp, exec_rdst_of_error hp⟩

/-! ### No way to stop (R41 item 3, R78, R190) -/

/-- The index bounds of the invariants are the decoder's: EXPAND from 16 on, ROUND anywhere, the quiet phases at 0. -/
theorem State.Inv.seqReachable {s : State} (h : s.Inv) : s.seqReachable = true := by
  cases hp : s.PHASE with
  | expand => exact State.seqReachable_of_decode (decode_seqWord_of_expand hp (h.idxExpand hp))
  | round => exact State.seqReachable_of_decode (decode_seqWord_of_round hp)
  | idle => exact State.seqReachable_of_quiet (.inl hp) (h.idx_of_idle hp)
  | done => exact State.seqReachable_of_quiet (.inr (.inl hp)) (h.idxQuiet (by simp [State.busy, hp]))
  | error => exact State.seqReachable_of_quiet (.inr (.inr hp)) (h.idxQuiet (by simp [State.busy, hp]))

/-- Settles O48: the invariants keep `SEQ` at a reachable word, where every step completes (`step_completes`). -/
theorem invariantStatesAlwaysStep : Obligations.InvariantStatesAlwaysStep := fun _ h =>
  ⟨step_completes h.seqReachable, h.status_cases⟩

end Sys2Proof.Machine
